-- ==== Sys2Proof/Word.lean ====
section
/-! DEFINITION. The words of the machine (00_scope.md R7, R9, R10): every value is unsigned, bit 0 is the least
significant bit, `++` puts its left operand in the high bits. -/

namespace Sys2Proof

/-- A byte: a general register, a memory cell, a timer (R21, R27, R30, R31). -/
abbrev Byte := BitVec 8

/-- A 16-bit word: an instruction word, `pc`, `I`, a stack slot (R24, R23, R25, R91). -/
abbrev Word := BitVec 16

/-- A 12-bit immediate address `nnn` (R92, R94). -/
abbrev Addr := BitVec 12

/-- The number of a general register: the 4-bit fields `x` and `y` select one of the 16 directly (R21, R94). -/
abbrev RegIdx := Fin 16

/-- The register `V[15]`, which doubles as the flag (R22). -/
abbrev VF : RegIdx := 15

end Sys2Proof
end

