-- ==== Sys2Proof/Syntax.lean ====
section
/-! DEFINITION. The instructions (30_encoding.md R93, R108): one constructor per row of spec/opcode_table.json, in the
table's order. A register field is a register number, `n` a row count 0 to 15, `nn` a byte, `nnn` a 12-bit address
(R94), so every term is a legal instruction. A word that matches no row is not an instruction here: the decoder
answers `.unknown` for it (R102). -/

namespace Sys2Proof

/-- The 34 instructions (R108). -/
inductive Instr where
  /-- `CLS`, 00E0 (R190) -/
  | cls
  /-- `RET`, 00EE (R142) -/
  | ret
  /-- `JP nnn`, 1nnn (R140) -/
  | jp (nnn : Addr)
  /-- `CALL nnn`, 2nnn (R141) -/
  | call (nnn : Addr)
  /-- `SE Vx, nn`, 3xnn (R150) -/
  | seImm (x : RegIdx) (nn : Byte)
  /-- `SNE Vx, nn`, 4xnn (R151) -/
  | sneImm (x : RegIdx) (nn : Byte)
  /-- `SE Vx, Vy`, 5xy0 (R152) -/
  | seReg (x y : RegIdx)
  /-- `LD Vx, nn`, 6xnn (R160) -/
  | ldImm (x : RegIdx) (nn : Byte)
  /-- `ADD Vx, nn`, 7xnn (R161) -/
  | addImm (x : RegIdx) (nn : Byte)
  /-- `LD Vx, Vy`, 8xy0 (R162) -/
  | ldReg (x y : RegIdx)
  /-- `OR Vx, Vy`, 8xy1 (R164) -/
  | orReg (x y : RegIdx)
  /-- `AND Vx, Vy`, 8xy2 (R165) -/
  | andReg (x y : RegIdx)
  /-- `XOR Vx, Vy`, 8xy3 (R166) -/
  | xorReg (x y : RegIdx)
  /-- `ADD Vx, Vy`, 8xy4 (R167) -/
  | addReg (x y : RegIdx)
  /-- `SUB Vx, Vy`, 8xy5 (R168) -/
  | sub (x y : RegIdx)
  /-- `SHR Vx`, 8xy6 (R170); `y` is present in the word and ignored (R103) -/
  | shr (x y : RegIdx)
  /-- `SUBN Vx, Vy`, 8xy7 (R169) -/
  | subn (x y : RegIdx)
  /-- `SHL Vx`, 8xyE (R171); `y` is present in the word and ignored (R103) -/
  | shl (x y : RegIdx)
  /-- `SNE Vx, Vy`, 9xy0 (R153) -/
  | sneReg (x y : RegIdx)
  /-- `LD I, nnn`, Annn (R180) -/
  | ldI (nnn : Addr)
  /-- `JP V0, nnn`, Bnnn (R143) -/
  | jpV0 (nnn : Addr)
  /-- `RND Vx, nn`, Cxnn (R183) -/
  | rnd (x : RegIdx) (nn : Byte)
  /-- `DRW Vx, Vy, n`, Dxyn (R191) -/
  | drw (x y : RegIdx) (n : Fin 16)
  /-- `SKP Vx`, Ex9E (R154) -/
  | skp (x : RegIdx)
  /-- `SKNP Vx`, ExA1 (R155) -/
  | sknp (x : RegIdx)
  /-- `LD Vx, DT`, Fx07 (R200) -/
  | ldFromDt (x : RegIdx)
  /-- `LD Vx, K`, Fx0A (R203) -/
  | ldKey (x : RegIdx)
  /-- `LD DT, Vx`, Fx15 (R201) -/
  | ldDt (x : RegIdx)
  /-- `LD ST, Vx`, Fx18 (R202) -/
  | ldSt (x : RegIdx)
  /-- `ADD I, Vx`, Fx1E (R181) -/
  | addI (x : RegIdx)
  /-- `LD F, Vx`, Fx29 (R182) -/
  | ldF (x : RegIdx)
  /-- `LD B, Vx`, Fx33 (R210) -/
  | ldBcd (x : RegIdx)
  /-- `LD [I], Vx`, Fx55 (R211) -/
  | storeRegs (x : RegIdx)
  /-- `LD Vx, [I]`, Fx65 (R212) -/
  | loadRegs (x : RegIdx)
  deriving DecidableEq, Repr

end Sys2Proof
end

