-- ==== Sys2Proof/Decode.lean ====
section
/-! DEFINITION. Decoding and encoding (30_encoding.md). Every instruction is one 16-bit word (R90, R91); the decoder is
total: every word has exactly one meaning (R102). Below the decoder stand the encoder and the opcode table as data. -/

namespace Sys2Proof

/-- A 4-bit register field as a register number (R94). -/
def regOfBits (b : BitVec 4) : Fin 16 := ⟨b.toNat, b.isLt⟩

/-- A register number (or row count) as its 4-bit field. -/
def bitsOfReg (r : Fin 16) : BitVec 4 := BitVec.ofNat 4 r.val

/-- `op = w[15:12]` (R92). -/
def opField (w : Word) : BitVec 4 := w.extractLsb' 12 4

/-- `x = w[11:8]` (R92). -/
def xField (w : Word) : RegIdx := regOfBits (w.extractLsb' 8 4)

/-- `y = w[7:4]` (R92). -/
def yField (w : Word) : RegIdx := regOfBits (w.extractLsb' 4 4)

/-- `n = w[3:0]` (R92). -/
def nField (w : Word) : Fin 16 := regOfBits (w.extractLsb' 0 4)

/-- `nn = w[7:0]` (R92). -/
def nnField (w : Word) : Byte := w.extractLsb' 0 8

/-- `nnn = w[11:0]` (R92). -/
def nnnField (w : Word) : Addr := w.extractLsb' 0 12

/-- What the decoder selects for a word: one of the 34 operations, or the unknown instruction with the word that
stands for it (R102, R123). -/
inductive Decoded where
  | instr (i : Instr)
  | unknown (w : Word)
  deriving DecidableEq, Repr

/-- Family 0 is matched on the whole low 12 bits (R96). -/
def decodeFamily0 (w : Word) : Decoded :=
  match (nnnField w).toNat with
  | 0x0E0 => .instr .cls
  | 0x0EE => .instr .ret
  | _ => .unknown w

/-- Family 8 is selected by `n` (R97). -/
def decodeFamily8 (w : Word) : Decoded :=
  match (nField w).val with
  | 0x0 => .instr (.ldReg (xField w) (yField w))
  | 0x1 => .instr (.orReg (xField w) (yField w))
  | 0x2 => .instr (.andReg (xField w) (yField w))
  | 0x3 => .instr (.xorReg (xField w) (yField w))
  | 0x4 => .instr (.addReg (xField w) (yField w))
  | 0x5 => .instr (.sub (xField w) (yField w))
  | 0x6 => .instr (.shr (xField w) (yField w))
  | 0x7 => .instr (.subn (xField w) (yField w))
  | 0xE => .instr (.shl (xField w) (yField w))
  | _ => .unknown w

/-- Families 5 and 9 need `n = 0` (R98); the word is `i` when it is. -/
def decodeZeroNibble (w : Word) (i : Instr) : Decoded :=
  match (nField w).val with
  | 0x0 => .instr i
  | _ => .unknown w

/-- Family E is selected by `nn` (R99). -/
def decodeFamilyE (w : Word) : Decoded :=
  match (nnField w).toNat with
  | 0x9E => .instr (.skp (xField w))
  | 0xA1 => .instr (.sknp (xField w))
  | _ => .unknown w

/-- Family F is selected by `nn` (R100). -/
def decodeFamilyF (w : Word) : Decoded :=
  match (nnField w).toNat with
  | 0x07 => .instr (.ldFromDt (xField w))
  | 0x0A => .instr (.ldKey (xField w))
  | 0x15 => .instr (.ldDt (xField w))
  | 0x18 => .instr (.ldSt (xField w))
  | 0x1E => .instr (.addI (xField w))
  | 0x29 => .instr (.ldF (xField w))
  | 0x33 => .instr (.ldBcd (xField w))
  | 0x55 => .instr (.storeRegs (xField w))
  | 0x65 => .instr (.loadRegs (xField w))
  | _ => .unknown w

/-- The decoder: dispatch on the primary family, then on the family's own field (R95 to R102, R123). The opcode
numbers are the conventional ones (R105; log 10). -/
def decodeWord (w : Word) : Decoded :=
  match (opField w).toNat with
  | 0x0 => decodeFamily0 w
  | 0x1 => .instr (.jp (nnnField w))
  | 0x2 => .instr (.call (nnnField w))
  | 0x3 => .instr (.seImm (xField w) (nnField w))
  | 0x4 => .instr (.sneImm (xField w) (nnField w))
  | 0x5 => decodeZeroNibble w (.seReg (xField w) (yField w))
  | 0x6 => .instr (.ldImm (xField w) (nnField w))
  | 0x7 => .instr (.addImm (xField w) (nnField w))
  | 0x8 => decodeFamily8 w
  | 0x9 => decodeZeroNibble w (.sneReg (xField w) (yField w))
  | 0xA => .instr (.ldI (nnnField w))
  | 0xB => .instr (.jpV0 (nnnField w))
  | 0xC => .instr (.rnd (xField w) (nnField w))
  | 0xD => .instr (.drw (xField w) (yField w) (nField w))
  | 0xE => decodeFamilyE w
  | _ => decodeFamilyF w

/-- Decoding from bytes: the first byte is the high-order one (R62, R91). -/
inductive ByteDecode where
  | decoded (d : Decoded) (rest : List Byte)
  /-- Fewer than the two bytes of an instruction (R90). -/
  | truncated
  deriving DecidableEq, Repr

/-- The instruction at the head of a byte sequence, with the bytes after it. -/
def decodeBytes : List Byte → ByteDecode
  | hi :: lo :: rest => .decoded (decodeWord (hi ++ lo)) rest
  | _ => .truncated

/-- The two bytes that store the low `nbits` bits of `w` as an instruction word, first byte high (R91); the bits above
`nbits` are zero (log 16). -/
def tableWordBytes (nbits w : Nat) : List Byte :=
  [BitVec.ofNat 8 (w % 2 ^ nbits / 256), BitVec.ofNat 8 (w % 2 ^ nbits)]

/-- The instruction the decoder reads from a word numbered as spec/opcode_table.json numbers it; `none` where the word
is the unknown instruction. -/
def decodeTableWord (nbits w : Nat) : Option Instr :=
  match decodeBytes (tableWordBytes nbits w) with
  | .decoded (.instr i) _ => some i
  | .decoded (.unknown _) _ => none
  | .truncated => none

/-- Format NNN (R93). -/
def wordNNN (op : BitVec 4) (nnn : Addr) : Word := op ++ nnn

/-- Format XNN (R93). -/
def wordXNN (op : BitVec 4) (x : RegIdx) (nn : Byte) : Word := op ++ bitsOfReg x ++ nn

/-- Formats XY and XYN: four nibbles (R93). -/
def wordXYN (op : BitVec 4) (x y : RegIdx) (n : BitVec 4) : Word := op ++ bitsOfReg x ++ bitsOfReg y ++ n

/-- The word of an instruction (R93, R108). -/
def encode : Instr → Word
  | .cls => 0x00E0
  | .ret => 0x00EE
  | .jp nnn => wordNNN 0x1 nnn
  | .call nnn => wordNNN 0x2 nnn
  | .seImm x nn => wordXNN 0x3 x nn
  | .sneImm x nn => wordXNN 0x4 x nn
  | .seReg x y => wordXYN 0x5 x y 0x0
  | .ldImm x nn => wordXNN 0x6 x nn
  | .addImm x nn => wordXNN 0x7 x nn
  | .ldReg x y => wordXYN 0x8 x y 0x0
  | .orReg x y => wordXYN 0x8 x y 0x1
  | .andReg x y => wordXYN 0x8 x y 0x2
  | .xorReg x y => wordXYN 0x8 x y 0x3
  | .addReg x y => wordXYN 0x8 x y 0x4
  | .sub x y => wordXYN 0x8 x y 0x5
  | .shr x y => wordXYN 0x8 x y 0x6
  | .subn x y => wordXYN 0x8 x y 0x7
  | .shl x y => wordXYN 0x8 x y 0xE
  | .sneReg x y => wordXYN 0x9 x y 0x0
  | .ldI nnn => wordNNN 0xA nnn
  | .jpV0 nnn => wordNNN 0xB nnn
  | .rnd x nn => wordXNN 0xC x nn
  | .drw x y n => wordXYN 0xD x y (bitsOfReg n)
  | .skp x => wordXNN 0xE x 0x9E
  | .sknp x => wordXNN 0xE x 0xA1
  | .ldFromDt x => wordXNN 0xF x 0x07
  | .ldKey x => wordXNN 0xF x 0x0A
  | .ldDt x => wordXNN 0xF x 0x15
  | .ldSt x => wordXNN 0xF x 0x18
  | .addI x => wordXNN 0xF x 0x1E
  | .ldF x => wordXNN 0xF x 0x29
  | .ldBcd x => wordXNN 0xF x 0x33
  | .storeRegs x => wordXNN 0xF x 0x55
  | .loadRegs x => wordXNN 0xF x 0x65

/-- A row of spec/opcode_table.json: the instruction is the row with `w AND mask = fixed` (R123). -/
structure OpcodeRow where
  mnemonic : String
  fixed : Word
  mask : Word
  deriving DecidableEq, Repr

/-- Rows of families 0 to 7. -/
def tableFamilies0to7 : List OpcodeRow := [
  ⟨"CLS", 0x00E0, 0xFFFF⟩,
  ⟨"RET", 0x00EE, 0xFFFF⟩,
  ⟨"JP_nnn", 0x1000, 0xF000⟩,
  ⟨"CALL_nnn", 0x2000, 0xF000⟩,
  ⟨"SE_Vx__nn", 0x3000, 0xF000⟩,
  ⟨"SNE_Vx__nn", 0x4000, 0xF000⟩,
  ⟨"SE_Vx__Vy", 0x5000, 0xF00F⟩,
  ⟨"LD_Vx__nn", 0x6000, 0xF000⟩,
  ⟨"ADD_Vx__nn", 0x7000, 0xF000⟩]

/-- Rows of family 8. -/
def tableFamily8 : List OpcodeRow := [
  ⟨"LD_Vx__Vy", 0x8000, 0xF00F⟩,
  ⟨"OR_Vx__Vy", 0x8001, 0xF00F⟩,
  ⟨"AND_Vx__Vy", 0x8002, 0xF00F⟩,
  ⟨"XOR_Vx__Vy", 0x8003, 0xF00F⟩,
  ⟨"ADD_Vx__Vy", 0x8004, 0xF00F⟩,
  ⟨"SUB_Vx__Vy", 0x8005, 0xF00F⟩,
  ⟨"SHR_Vx", 0x8006, 0xF00F⟩,
  ⟨"SUBN_Vx__Vy", 0x8007, 0xF00F⟩,
  ⟨"SHL_Vx", 0x800E, 0xF00F⟩]

/-- Rows of families 9 to D. -/
def tableFamilies9toD : List OpcodeRow := [
  ⟨"SNE_Vx__Vy", 0x9000, 0xF00F⟩,
  ⟨"LD_I__nnn", 0xA000, 0xF000⟩,
  ⟨"JP_V0__nnn", 0xB000, 0xF000⟩,
  ⟨"RND_Vx__nn", 0xC000, 0xF000⟩,
  ⟨"DRW_Vx__Vy__n", 0xD000, 0xF000⟩]

/-- Rows of families E and F. -/
def tableFamiliesEF : List OpcodeRow := [
  ⟨"SKP_Vx", 0xE09E, 0xF0FF⟩,
  ⟨"SKNP_Vx", 0xE0A1, 0xF0FF⟩,
  ⟨"LD_Vx__DT", 0xF007, 0xF0FF⟩,
  ⟨"LD_Vx__K", 0xF00A, 0xF0FF⟩,
  ⟨"LD_DT__Vx", 0xF015, 0xF0FF⟩,
  ⟨"LD_ST__Vx", 0xF018, 0xF0FF⟩,
  ⟨"ADD_I__Vx", 0xF01E, 0xF0FF⟩,
  ⟨"LD_F__Vx", 0xF029, 0xF0FF⟩,
  ⟨"LD_B__Vx", 0xF033, 0xF0FF⟩,
  ⟨"LD__I___Vx", 0xF055, 0xF0FF⟩,
  ⟨"LD_Vx___I", 0xF065, 0xF0FF⟩]

/-- The opcode table (30_encoding.md R108; spec/opcode_table.json), in its order. -/
def opcodeTable : List OpcodeRow :=
  tableFamilies0to7 ++ tableFamily8 ++ tableFamilies9toD ++ tableFamiliesEF

/-- The word has the row's fixed bits. -/
def OpcodeRow.selects (r : OpcodeRow) (w : Word) : Bool := w &&& r.mask == r.fixed

end Sys2Proof
end

