-- ==== Sys2Proof/Config.lean ====
section
/-! DEFINITION. The open parameters of the spec (00_scope.md R8; 92_eei_decisions.md section 1). Each is a constant
without a body: no proof can see what it is, so a claim over the model holds whatever it is. -/

namespace Sys2Proof.Config

/-- `FONT_TABLE` of R27 (D26, U13): the 80 bytes `reset` puts at 0x000 to 0x04F. Log 1; safe. -/
opaque fontTable : Vector Byte 80

/-- `BORROW_FLAG_5` of R168 (D9, U5): the flag of `SUB` as a function of the two pre-state operands `(V[x], V[y])`.
The spec gives neither its formula nor its polarity. DESIGN CHOICE of form, log 4; safe. -/
opaque borrowFlag5 : Byte → Byte → Bool

/-- `BORROW_FLAG_7` of R169 (D9, U5): the flag of `SUBN` as a function of `(V[x], V[y])`; not related to
`borrowFlag5`. DESIGN CHOICE of form, log 4; safe. -/
opaque borrowFlag7 : Byte → Byte → Bool

/-- `RandomByte()` of R183 (D16, U7): the byte of the k-th draw, under no law. Log 2. -/
opaque randomByte : Nat → Byte

/-- `RESET_DRAW_FLAG` of R29 (D20, U8): what `reset` leaves in `draw_flag`; "a model should treat it as any value".
Log 3; safe. -/
opaque resetDrawFlag : Bool

end Sys2Proof.Config
end

