-- ==== Sys2Proof/Machine/Flags.lean ====
section
/-! DEFINITION. The flag computations: what the flag-writing instructions put in `V[15]` (R22, R163). Each is a bit; the
register receives 0x00 or 0x01. The collision flag of `DRW` is computed with the draw, in Ops.lean. -/

namespace Sys2Proof.Machine

/-- The byte a flag bit is written as (R22). -/
def flagByte (b : Bool) : Byte := if b then 0x01 else 0x00

/-- The carry of `ADD Vx, Vy`: 1 when the operands share a 1 bit; not the arithmetic carry (R167). -/
def carryFlag (a b : Byte) : Bool := a &&& b != 0

/-- The borrow flag of `SUB` on `(V[x], V[y])`: an open parameter (R168, D9). -/
def borrowFlag5 (a b : Byte) : Bool := Config.borrowFlag5 a b

/-- The borrow flag of `SUBN` on `(V[x], V[y])`: an open parameter (R169, D9). -/
def borrowFlag7 (a b : Byte) : Bool := Config.borrowFlag7 a b

/-- The bit `SHR` shifts out (R170). -/
def lowBit (a : Byte) : Bool := a.getLsbD 0

/-- The bit `SHL` shifts out (R171). -/
def highBit (a : Byte) : Bool := a.getLsbD 7

end Sys2Proof.Machine
end

