-- ==== Sys2Proof/Machine/Reset.lean ====
section
/-! DEFINITION. The two open parameters that `reset` installs: the font table (R27, R260) and the reset value of the
repaint flag (R29). -/

namespace Sys2Proof.Machine

/-- `FONT_TABLE`: glyph `d` at `d × 5`, five bytes each (R7, R67). An open parameter (R8, D26), log 1; safe. -/
def fontTable : List Byte := Config.fontTable.toList

/-- What `mem[a]` holds after `reset` (R27, R38), and so what an unlisted address of `Memory` reads as. -/
def resetByte (a : Nat) : Byte := if a < 80 then fontTable.getD a 0 else 0

/-- `RESET_DRAW_FLAG` (R29, D20). DESIGN CHOICE: an opaque constant, log 3; safe. -/
def resetDrawFlag : Bool := Config.resetDrawFlag

/-! ## The default of the font parameter -/

/-- Glyphs 0 to 7 of the default `FONT_TABLE` (93_implementation_defined.md G3). -/
def glyphs0to7 : List Byte :=
  [0xF0, 0x90, 0x90, 0x90, 0xF0] ++ [0x20, 0x60, 0x20, 0x20, 0x70] ++
  [0xF0, 0x10, 0xF0, 0x80, 0xF0] ++ [0xF0, 0x10, 0xF0, 0x10, 0xF0] ++
  [0x90, 0x90, 0xF0, 0x10, 0x10] ++ [0xF0, 0x80, 0xF0, 0x10, 0xF0] ++
  [0xF0, 0x80, 0xF0, 0x90, 0xF0] ++ [0xF0, 0x10, 0x20, 0x40, 0x40]

/-- Glyphs 8 to F of the default `FONT_TABLE` (93_implementation_defined.md G3). -/
def glyphs8toF : List Byte :=
  [0xF0, 0x90, 0xF0, 0x90, 0xF0] ++ [0xF0, 0x90, 0xF0, 0x10, 0xF0] ++
  [0xF0, 0x90, 0xF0, 0x90, 0x90] ++ [0xE0, 0x90, 0xE0, 0x90, 0xE0] ++
  [0xF0, 0x80, 0x80, 0x80, 0xF0] ++ [0xE0, 0x90, 0x90, 0x90, 0xE0] ++
  [0xF0, 0x80, 0xF0, 0x80, 0xF0] ++ [0xF0, 0x80, 0xF0, 0x80, 0x80]

/-- The spec's default for `FONT_TABLE` (D26, G3). No definition of the machine uses it. -/
def defaultFont : List Byte := glyphs0to7 ++ glyphs8toF

/-- The parameter has its default value: the property that a claim about a glyph's bytes names as a premise (R8, D26). -/
def usesDefaultFont : Prop := fontTable = defaultFont

end Sys2Proof.Machine
end

