-- ==== Sys2Proof/WellFormed.lean ====
section
/-! DEFINITION. What is well formed. An instruction's operands are typed (a register number below 16, a row count
below 16, an 8-bit or 12-bit immediate), and "every value is a valid register" (R94), "there are no illegal
encodings" (R103): so every term of `Instr` is well formed and no check on instructions remains. What the spec does
check is the program image given to `loadProgram` (R7, R265). -/

namespace Sys2Proof

/-- MEM_SIZE (R7). -/
def memSize : Nat := 4096

/-- PROG_BASE, where a program image is installed (R7, R264). -/
def progBase : Nat := 0x200

/-- MAX_PROG_LEN, the longest image: 4096 - 512 bytes (R7, R265). -/
def maxProgLen : Nat := 3584

/-- An image `loadProgram` accepts: at most MAX_PROG_LEN bytes, and length 0 is legal (R264, R265). -/
def imageWellFormed (bytes : List Byte) : Bool := decide (bytes.length ≤ maxProgLen)

end Sys2Proof
end

