-- ==== Sys2Proof/Machine/Memory.lean ====
section
/-! DEFINITION. Main memory `mem[0..4095]` (R27, R60): a list of (address, byte) cells in one canonical form. An
unlisted address reads as its reset contents. Addresses here are natural numbers; the range check of R61 stands in
Ops.lean, before any access (R77). -/

namespace Sys2Proof.Machine

/-- Memory as the cells that differ from the reset contents. -/
structure Memory where
  cells : List Host.Cell
  deriving DecidableEq, Repr

namespace Memory

/-- Memory with nothing listed: the reset contents (R38). -/
def empty : Memory := ⟨[]⟩

/-- The byte that `cells` gives for address `a`. -/
def lookup : List Host.Cell → Nat → Byte
  | [], a => resetByte a
  | (b, v) :: rest, a => if b = a then v else lookup rest a

/-- `mem[a]` (R60). -/
def get (m : Memory) (a : Nat) : Byte := lookup m.cells a

/-- Every cell but those for address `a`. -/
def erase (a : Nat) : List Host.Cell → List Host.Cell
  | [] => []
  | (b, v) :: rest => if b = a then erase a rest else (b, v) :: erase a rest

/-- A cell put at its place in rising address order. -/
def insert (a : Nat) (v : Byte) : List Host.Cell → List Host.Cell
  | [] => [(a, v)]
  | (b, u) :: rest => if a < b then (a, v) :: (b, u) :: rest else (b, u) :: insert a v rest

/-- `mem[a] <- v` (R60), keeping the canonical form: writing the reset contents unlists the address. -/
def set (m : Memory) (a : Nat) (v : Byte) : Memory :=
  if v = resetByte a then ⟨erase a m.cells⟩ else ⟨insert a v (erase a m.cells)⟩

/-- Bytes written one by one in ascending address order (R63, R77, R264). -/
def setBytes (m : Memory) (a : Nat) : List Byte → Memory
  | [] => m
  | v :: rest => (m.set a v).setBytes (a + 1) rest

/-- `n` bytes read in ascending address order from `a` (R63, R77). -/
def bytes (m : Memory) (a : Nat) : Nat → List Byte
  | 0 => []
  | n + 1 => m.get a :: m.bytes (a + 1) n

/-- The canonical form from address `lo` on: addresses strictly rising, below MEM_SIZE, and no cell equal to the reset
contents. -/
def canonicalFrom : Nat → List Host.Cell → Bool
  | _, [] => true
  | lo, (a, v) :: rest => lo ≤ a && a < memSize && v != resetByte a && canonicalFrom (a + 1) rest

/-- The canonical form. -/
def wf (m : Memory) : Bool := canonicalFrom 0 m.cells

end Memory

end Sys2Proof.Machine
end

