-- ==== Sys2Proof/Machine/State.lean ====
section
/-! DEFINITION. The architectural state (10_state.md R20) as plain data, its reset values (R38), and the reasons a step
can stop. -/

namespace Sys2Proof.Machine

/-- The display buffer: 32 rows, top to bottom, of 64 one-bit cells; bit `c` of row `r` is the cell of column `c`, that
is `display[r × 64 + c]` (R28). The layout is a DESIGN CHOICE, log 7; safe. -/
abbrev Display := Vector (BitVec 64) 32

/-- The fault latch (R34): `fault`, `fault_code`, `fault_pc`, `fault_info`. -/
structure FaultLatch where
  /-- 1 once any fault has been raised -/
  fault : Bool
  /-- the code of R222 -/
  code : BitVec 3
  /-- the `pc` of the step that faulted -/
  pc : Word
  /-- the value the fault's own rule names -/
  info : Word
  deriving DecidableEq, Repr

/-- The latch with no fault raised (R38). -/
def FaultLatch.clear : FaultLatch := ⟨false, 0, 0, 0⟩

/-- The five faults (R222). The spec describes their entry (R229), so a meaning that raises one answers a NEXT state
with the latch written (Ops.lean `State.raise`); no step of this machine answers `Outcome.fault`. All are safe: the
machine freezes where the source's program does something undefined (log 5, log 11). -/
inductive Fault where
  /-- Code 1, raised by the fetch, `DRW`, `LD B`, `LD [I], Vx`, `LD Vx, [I]` on an address above 4095 (R223); safe. -/
  | memRange
  /-- Code 2, raised by `CALL` with `sp = 16` (R224); safe. -/
  | stackOverflow
  /-- Code 3, raised by `RET` with `sp = 0` (R225); safe. -/
  | stackUnderflow
  /-- Code 4, raised by `DRW` whose rectangle leaves the display (R226); safe. -/
  | displayRange
  /-- Code 5, raised by `SKP` and `SKNP` with `V[x] > 15` (R227); safe. -/
  | keyRange
  deriving DecidableEq, Repr

/-- A rejection by name. No arm of `exec` refuses in this model. -/
inductive Refusal where
  /-- An instruction without a meaning, raised by its arm of `exec`; safe. No arm raises it. -/
  | notModelled (mnemonic : String)
  deriving DecidableEq, Repr

/-- The state of the core (R20). -/
structure State where
  /-- `V[0..15]`, the general registers; `V[15]` is the flag (R21, R22) -/
  v : Vector Byte 16
  /-- `I`, the index register (R23) -/
  i : Word
  /-- `pc`: between steps, the next instruction to fetch; during one, its address (R24) -/
  pc : Word
  /-- `stack[0..15]`, the return addresses (R25) -/
  stack : Vector Word 16
  /-- `sp`, how many return addresses the stack holds, 0 to 16 (R26) -/
  sp : Fin 17
  /-- `mem[0..4095]` (R27) -/
  mem : Memory
  /-- `display[0..2047]` (R28) -/
  display : Display
  /-- `draw_flag`, the repaint flag (R29) -/
  drawFlag : Bool
  /-- `delay`, the delay timer (R30) -/
  delay : Byte
  /-- `sound`, the sound timer (R31) -/
  sound : Byte
  /-- `keys[0..15]`, true for pressed (R32) -/
  keys : Vector Bool 16
  /-- `fault`, `fault_code`, `fault_pc`, `fault_info` (R34) -/
  latch : FaultLatch
  /-- THE MODEL'S OWN: how many random bytes have been drawn; it names the next free value (R33, R183; log 2) -/
  draws : Nat
  deriving DecidableEq, Repr

/-- The machine right after `reset` (R38, R260). `drawFlag` is the open parameter `RESET_DRAW_FLAG` (log 3); `draws` is
the model's own, DESIGN CHOICE 0 (log 2). -/
def State.reset : State where
  v := Vector.replicate 16 0
  i := 0
  pc := 0x0200
  stack := Vector.replicate 16 0
  sp := 0
  mem := Memory.empty
  display := Vector.replicate 32 0
  drawFlag := resetDrawFlag
  delay := 0
  sound := 0
  keys := Vector.replicate 16 false
  latch := FaultLatch.clear
  draws := 0

end Sys2Proof.Machine
end

