-- ==== Sys2Proof/Machine/Operands.lean ====
section
/-! DEFINITION. Operand forms (R92, R94): registers, zero-extended immediates, the effective addresses and the values
computed from a register that the instruction rules name. -/

namespace Sys2Proof.Machine

/-- `V[x]` (R11, R21). -/
def State.reg (s : State) (x : RegIdx) : Byte := s.v[x]

/-- `zext_16(nnn)` (R94). -/
def addrWord (nnn : Addr) : Word := nnn.setWidth 16

/-- `zext_16(V[x])` (R143, R181, R227). -/
def byteWord (b : Byte) : Word := b.setWidth 16

/-- `V[x] × 5`, the whole byte, not masked to a digit (R182, D32). -/
def glyphAddr (b : Byte) : Word := byteWord b * 5

/-- The base of a data access: `I` as a natural number (R70). -/
def State.dataBase (s : State) : Nat := s.i.toNat

/-- The decimal digits of a byte, hundreds first, one per byte (R210). -/
def bcdDigits (b : Byte) : List Byte :=
  [BitVec.ofNat 8 (b.toNat / 100), BitVec.ofNat 8 (b.toNat / 10 % 10), BitVec.ofNat 8 (b.toNat % 10)]

/-- The registers `V[0]` to `V[x]`, `x + 1` of them (R211). -/
def State.regsUpTo (s : State) (x : RegIdx) : List Byte := s.v.toList.take (x.val + 1)

/-- The key a skip names: the whole byte `V[x]`, when one of the 16 keys exists for it (R154). -/
def keyOf (b : Byte) : Option (Fin 16) := if h : b.toNat < 16 then some ⟨b.toNat, h⟩ else none

/-- The lowest-indexed pressed key, if any (R203). -/
def State.lowestPressed (s : State) : Option (Fin 16) := (List.finRange 16).find? fun k => s.keys[k]

end Sys2Proof.Machine
end

