-- ==== Sys2Proof/Machine/Ops.lean ====
section
/-! DEFINITION. The named operations the meanings share: register and `pc` writes, the fault entry, the range check of
memory, the call stack, the sprite draw, the random draw, the instruction fetch and the timer update. -/

namespace Sys2Proof.Machine

/-- What a meaning answers. -/
abbrev Result := Host.Outcome State Fault Refusal

/-! ## One setter per element -/

/-- All general registers at once. -/
def State.setRegs (s : State) (v : Vector Byte 16) : State := { s with v := v }
/-- `I <- w`. -/
def State.setI (s : State) (w : Word) : State := { s with i := w }
/-- `pc <- w`. -/
def State.setPc (s : State) (w : Word) : State := { s with pc := w }
/-- The stack slots. -/
def State.setStack (s : State) (k : Vector Word 16) : State := { s with stack := k }
/-- `sp <- n`. -/
def State.setSp (s : State) (n : Fin 17) : State := { s with sp := n }
/-- Main memory. -/
def State.setMem (s : State) (m : Memory) : State := { s with mem := m }
/-- The display buffer. -/
def State.setDisplay (s : State) (d : Display) : State := { s with display := d }
/-- `draw_flag <- b`. -/
def State.setDrawFlag (s : State) (b : Bool) : State := { s with drawFlag := b }
/-- `delay <- b`. -/
def State.setDelay (s : State) (b : Byte) : State := { s with delay := b }
/-- `sound <- b`. -/
def State.setSound (s : State) (b : Byte) : State := { s with sound := b }
/-- The key flags. -/
def State.setKeys (s : State) (k : Vector Bool 16) : State := { s with keys := k }
/-- The fault latch. -/
def State.setLatch (s : State) (l : FaultLatch) : State := { s with latch := l }
/-- The draw counter. -/
def State.setDraws (s : State) (n : Nat) : State := { s with draws := n }

/-! ## Registers and the program counter -/

/-- `V[x] <- b` (R11, R21). -/
def State.setReg (s : State) (x : RegIdx) (b : Byte) : State := s.setRegs (s.v.set x b)

/-- `V[15] <- zext_8(flag)` (R22). -/
def State.setFlag (s : State) (b : Bool) : State := s.setReg VF (flagByte b)

/-- `pc <- pc + 2`, modulo 65536 (R24, R130). -/
def State.advance (s : State) : State := s.setPc (s.pc + 2)

/-- The end of every skip: `pc + 4` when the condition holds, else `pc + 2` (R156). -/
def State.skipIf (s : State) (c : Bool) : State := s.setPc (if c then s.pc + 4 else s.pc + 2)

/-- Result register first, flag after it, so the flag wins when both are `V[15]` (R163; log 8), then `pc + 2`. -/
def State.writeResultAndFlag (s : State) (x : RegIdx) (b : Byte) (flag : Bool) : State :=
  ((s.setReg x b).setFlag flag).advance

/-! ## Taking a fault (R229) -/

/-- `fault_code` (R222). -/
def Fault.code : Fault → BitVec 3
  | .memRange => 1
  | .stackOverflow => 2
  | .stackUnderflow => 3
  | .displayRange => 4
  | .keyRange => 5

/-- `raise <Fault>(info)`: the latch is written with the code, the `pc` of the step and the fault's own value, and
nothing else changes (R128, R229). There is no return from a fault (R231). -/
def State.raise (s : State) (f : Fault) (info : Word) : State := s.setLatch ⟨true, f.code, s.pc, info⟩

/-! ## Memory -/

/-- The check made on a whole access range before the first access (R61, R77): `none` when the `len` bytes from `base`
lie in 0 to 4095, else the lowest out-of-range address (R223). -/
def rangeFault (base len : Nat) : Option Word :=
  if len = 0 ∨ base + len ≤ memSize then none else some (BitVec.ofNat 16 (max base memSize))

/-- An instruction that accesses `len` bytes from `base`: it faults with nothing committed, or becomes `next`. -/
def State.withRange (s : State) (base len : Nat) (next : State) : State :=
  match rangeFault base len with
  | some info => s.raise .memRange info
  | none => next

/-- `for i in 0 .. x: V[i] <- MemRead(I + i, 1)` (R212). -/
def State.loadUpTo (s : State) (x : RegIdx) : State :=
  s.setRegs (Vector.ofFn fun r : Fin 16 => if r ≤ x then s.mem.get (s.dataBase + r.val) else s.v[r])

/-! ## The call stack -/

/-- Push `pc` and count it, or fault when 16 addresses are held (R26, R141, R224). -/
def State.push (s : State) (target : Word) : State :=
  if h : s.sp.val < 16 then
    ((s.setStack (s.stack.set s.sp.val s.pc)).setSp ⟨s.sp.val + 1, by omega⟩).setPc target
  else
    s.raise .stackOverflow 16

/-- Pop the last address and resume 2 bytes after it, or fault when the stack is empty (R26, R142, R225). -/
def State.pop (s : State) : State :=
  if h : s.sp.val = 0 then
    s.raise .stackUnderflow 0
  else
    (s.setSp ⟨s.sp.val - 1, by omega⟩).setPc (s.stack[s.sp.val - 1]'(by omega) + 2)

/-! ## The keys -/

/-- `SKP` and `SKNP`: `KeyRangeFault` when `V[x]` names no key, else the skip when the key's flag is `level`
(R154, R155, R227). -/
def State.skipIfKey (s : State) (b : Byte) (level : Bool) : State :=
  match keyOf b with
  | some k => s.skipIf (s.keys[k] == level)
  | none => s.raise .keyRange (byteWord b)

/-! ## The display -/

/-- `display[k]` (R28). -/
def Display.cell (d : Display) (k : Nat) : Bool :=
  if h : k < 2048 then (d[k / 64]'(by omega)).getLsbD (k % 64) else false

/-- `display[k] <- display[k] XOR 1` (R191). -/
def Display.flip (d : Display) (k : Nat) : Display :=
  if h : k < 2048 then d.set (k / 64) (d[k / 64]'(by omega) ^^^ (1#64 <<< (k % 64))) (by omega) else d

/-- A draw in progress: the display so far, and whether a cell has gone from on to off. -/
abbrev Drawing := Display × Bool

/-- One sprite bit that is 1, on cell `k` (R191). -/
def drawCell (g : Drawing) (k : Nat) : Drawing := (Display.flip g.1 k, g.2 || Display.cell g.1 k)

/-- Columns `c` onward of a sprite row whose column 0 lies on cell `k`; bit `7 - c` of the byte is column `c` (R192). -/
def drawColumns (b : Byte) (k : Nat) : List Nat → Drawing → Drawing
  | [], g => g
  | c :: rest, g => drawColumns b k rest (if b.getLsbD (7 - c) then drawCell g (k + c) else g)

/-- Sprite rows from row `cy` on, at column `cx` (R191, R192). -/
def drawRows (cx : Nat) : Nat → List Byte → Drawing → Drawing
  | _, [], g => g
  | cy, b :: rest, g => drawRows cx (cy + 1) rest (drawColumns b (cy * 64 + cx) (List.range 8) g)

/-- A whole sprite (R191): the new display and the collision flag. -/
def drawSprite (d : Display) (cx cy : Nat) (rows : List Byte) : Drawing := drawRows cx cy rows (d, false)

/-- Whether a cell of the `8 × n` rectangle at column `cx`, row `cy` lies outside the display (R191, R226). -/
def offDisplay (cx cy n : Nat) : Bool := n > 0 && (cx + 7 > 63 || cy + n - 1 > 31)

/-! ## The random byte -/

/-- `RandomByte()` (R183): the free value of this draw. -/
def State.randomByte (s : State) : Byte := Config.randomByte s.draws

/-- One draw is taken; the next is another free value (R33, R183). -/
def State.countDraw (s : State) : State := s.setDraws (s.draws + 1)

/-! ## The frame of a step -/

/-- `mem[pc] ++ mem[pc + 1]`, the first byte high (R62, R121). -/
def State.fetchWord (s : State) : Word := s.mem.get s.pc.toNat ++ s.mem.get (s.pc.toNat + 1)

/-- One timer at the end of a completed step (R125). -/
def tick (b : Byte) : Byte := if b = 0 then 0 else b - 1

/-- The timer update (R125). -/
def State.updateTimers (s : State) : State := (s.setDelay (tick s.delay)).setSound (tick s.sound)

/-- Bytes of an instruction stored where the next fetch reads, as far as they fit in memory (log 16). -/
def State.withProgramBytes (s : State) (bs : List Byte) : State :=
  match rangeFault s.pc.toNat bs.length with
  | some _ => s
  | none => s.setMem (s.mem.setBytes s.pc.toNat bs)

end Sys2Proof.Machine
end

