-- ==== Sys2Proof/Machine/ControlFlow.lean ====
section
/-! DEFINITION. Control flow (41_control_flow.md). Each meaning is the operation phase of a step (R124); `pc` is the
address of the instruction (R24). -/

namespace Sys2Proof.Machine

/-- `RET` (R142). -/
def execRet (s : State) : Result := .next s.pop

/-- `JP nnn` (R140). -/
def execJp (nnn : Addr) (s : State) : Result := .next (s.setPc (addrWord nnn))

/-- `CALL nnn` (R141). -/
def execCall (nnn : Addr) (s : State) : Result := .next (s.push (addrWord nnn))

/-- `JP V0, nnn` (R143). -/
def execJpV0 (nnn : Addr) (s : State) : Result := .next (s.setPc (addrWord nnn + byteWord (s.reg 0)))

/-- The unknown instruction: `pc <- pc + 2` and no other change (R102, R124, R221). Its event is reported by the step
(Cycle.lean). -/
def execUnknown (s : State) : Result := .next s.advance

end Sys2Proof.Machine
end

