-- ==== Sys2Proof/Machine/DisplayOps.lean ====
section
/-! DEFINITION. The display instructions (45_display.md). -/

namespace Sys2Proof.Machine

/-- `CLS` (R190). -/
def execCls (s : State) : Result := .next ((s.setDisplay (Vector.replicate 32 0)).setDrawFlag true).advance

/-- `DRW Vx, Vy, n` when no check fails: the sprite at `I`, the collision flag, the repaint flag (R191). -/
def State.draw (s : State) (cx cy : Byte) (n : Nat) : State :=
  let g := drawSprite s.display cx.toNat cy.toNat (s.mem.bytes s.dataBase n)
  (((s.setDisplay g.1).setFlag g.2).setDrawFlag true).advance

/-- `DRW Vx, Vy, n`: memory range first, display rectangle second (R191, R233). -/
def execDrw (x y : RegIdx) (n : Fin 16) (s : State) : Result :=
  .next (s.withRange s.dataBase n.val
    (if offDisplay (s.reg x).toNat (s.reg y).toNat n.val then s.raise .displayRange (s.reg y ++ s.reg x)
      else s.draw (s.reg x) (s.reg y) n.val))

end Sys2Proof.Machine
end

