-- ==== Sys2Proof/Machine/IndexRandom.lean ====
section
/-! DEFINITION. The index register and the random byte (44_index_random.md). -/

namespace Sys2Proof.Machine

/-- `LD I, nnn` (R180). -/
def execLdI (nnn : Addr) (s : State) : Result := .next (s.setI (addrWord nnn)).advance

/-- `ADD I, Vx`: modulo 65536, no flag (R181). -/
def execAddI (x : RegIdx) (s : State) : Result := .next (s.setI (s.i + byteWord (s.reg x))).advance

/-- `LD F, Vx` (R182). -/
def execLdF (x : RegIdx) (s : State) : Result := .next (s.setI (glyphAddr (s.reg x))).advance

/-- `RND Vx, nn`: one draw, masked (R183; log 2). -/
def execRnd (x : RegIdx) (nn : Byte) (s : State) : Result :=
  .next ((s.setReg x (s.randomByte &&& nn)).countDraw).advance

end Sys2Proof.Machine
end

