-- ==== Sys2Proof/Machine/RegMem.lean ====
section
/-! DEFINITION. BCD store, register dump and load (47_bcd_regmem.md). `I` is left as it is. -/

namespace Sys2Proof.Machine

/-- `LD B, Vx` (R210). -/
def execLdBcd (x : RegIdx) (s : State) : Result :=
  .next (s.withRange s.dataBase 3 (s.setMem (s.mem.setBytes s.dataBase (bcdDigits (s.reg x)))).advance)

/-- `LD [I], Vx` (R211). -/
def execStoreRegs (x : RegIdx) (s : State) : Result :=
  .next (s.withRange s.dataBase (x.val + 1) (s.setMem (s.mem.setBytes s.dataBase (s.regsUpTo x))).advance)

/-- `LD Vx, [I]` (R212). -/
def execLoadRegs (x : RegIdx) (s : State) : Result :=
  .next (s.withRange s.dataBase (x.val + 1) (s.loadUpTo x).advance)

end Sys2Proof.Machine
end

