-- ==== Sys2Proof/Machine/RegisterAlu.lean ====
section
/-! DEFINITION. Register load and arithmetic (43_register_alu.md). Arithmetic is on unsigned bytes modulo 256 (R172);
operands are pre-state values (R12); a flag is written after the result (R163). -/

namespace Sys2Proof.Machine

/-- `LD Vx, nn` (R160). -/
def execLdImm (x : RegIdx) (nn : Byte) (s : State) : Result := .next (s.setReg x nn).advance

/-- `ADD Vx, nn`: no flag (R161). -/
def execAddImm (x : RegIdx) (nn : Byte) (s : State) : Result := .next (s.setReg x (s.reg x + nn)).advance

/-- `LD Vx, Vy` (R162). -/
def execLdReg (x y : RegIdx) (s : State) : Result := .next (s.setReg x (s.reg y)).advance

/-- `OR Vx, Vy`: no flag (R164). -/
def execOrReg (x y : RegIdx) (s : State) : Result := .next (s.setReg x (s.reg x ||| s.reg y)).advance

/-- `AND Vx, Vy`: no flag (R165). -/
def execAndReg (x y : RegIdx) (s : State) : Result := .next (s.setReg x (s.reg x &&& s.reg y)).advance

/-- `XOR Vx, Vy`: no flag (R166). -/
def execXorReg (x y : RegIdx) (s : State) : Result := .next (s.setReg x (s.reg x ^^^ s.reg y)).advance

/-- `ADD Vx, Vy` with the AND heuristic as its flag (R167). -/
def execAddReg (x y : RegIdx) (s : State) : Result :=
  .next (s.writeResultAndFlag x (s.reg x + s.reg y) (carryFlag (s.reg x) (s.reg y)))

/-- `SUB Vx, Vy` (R168). -/
def execSub (x y : RegIdx) (s : State) : Result :=
  .next (s.writeResultAndFlag x (s.reg x - s.reg y) (borrowFlag5 (s.reg x) (s.reg y)))

/-- `SHR Vx`: `y` is ignored (R170; log 9). -/
def execShr (x _y : RegIdx) (s : State) : Result :=
  .next (s.writeResultAndFlag x (s.reg x >>> 1) (lowBit (s.reg x)))

/-- `SUBN Vx, Vy`: the destination is `V[y]`, the source's literal text (R169; log 9). -/
def execSubn (x y : RegIdx) (s : State) : Result :=
  .next (s.writeResultAndFlag y (s.reg y - s.reg x) (borrowFlag7 (s.reg x) (s.reg y)))

/-- `SHL Vx`: `y` is ignored (R171; log 9). -/
def execShl (x _y : RegIdx) (s : State) : Result :=
  .next (s.writeResultAndFlag x (s.reg x <<< 1) (highBit (s.reg x)))

end Sys2Proof.Machine
end

