-- ==== Sys2Proof/Machine/Skip.lean ====
section
/-! DEFINITION. The six skips (42_skip.md, R156). -/

namespace Sys2Proof.Machine

/-- `SE Vx, nn` (R150). -/
def execSeImm (x : RegIdx) (nn : Byte) (s : State) : Result := .next (s.skipIf (s.reg x == nn))

/-- `SNE Vx, nn` (R151). -/
def execSneImm (x : RegIdx) (nn : Byte) (s : State) : Result := .next (s.skipIf (s.reg x != nn))

/-- `SE Vx, Vy` (R152). -/
def execSeReg (x y : RegIdx) (s : State) : Result := .next (s.skipIf (s.reg x == s.reg y))

/-- `SNE Vx, Vy` (R153). -/
def execSneReg (x y : RegIdx) (s : State) : Result := .next (s.skipIf (s.reg x != s.reg y))

/-- `SKP Vx` (R154). -/
def execSkp (x : RegIdx) (s : State) : Result := .next (s.skipIfKey (s.reg x) true)

/-- `SKNP Vx` (R155). -/
def execSknp (x : RegIdx) (s : State) : Result := .next (s.skipIfKey (s.reg x) false)

end Sys2Proof.Machine
end

