-- ==== Sys2Proof/Machine/TimerKey.lean ====
section
/-! DEFINITION. Timer and key-wait instructions (46_timer_key.md). The timer update that follows in the same step is the
step's (R125, Cycle.lean). -/

namespace Sys2Proof.Machine

/-- `LD Vx, DT` (R200). -/
def execLdFromDt (x : RegIdx) (s : State) : Result := .next (s.setReg x s.delay).advance

/-- `LD Vx, K`: the lowest pressed key, or no change at all (R203). -/
def execLdKey (x : RegIdx) (s : State) : Result :=
  match s.lowestPressed with
  | some k => .next (s.setReg x (BitVec.ofNat 8 k.val)).advance
  | none => .next s

/-- `LD DT, Vx` (R201). -/
def execLdDt (x : RegIdx) (s : State) : Result := .next (s.setDelay (s.reg x)).advance

/-- `LD ST, Vx` (R202). -/
def execLdSt (x : RegIdx) (s : State) : Result := .next (s.setSound (s.reg x)).advance

end Sys2Proof.Machine
end

