-- ==== Sys2Proof/Machine/Cycle.lean ====
section
/-! DEFINITION. The step cycle (40_step_cycle.md): fetch, decode, execute, timer update, outputs (R120). -/

namespace Sys2Proof.Machine

/-- The `UnknownInstruction` event: the word and the `pc` it was fetched from (R221). -/
structure UnknownEvent where
  word : Word
  pc : Word
  deriving DecidableEq, Repr

/-- The outputs of a step (R126 to R128); they are not state (R35). -/
inductive StepReport where
  /-- A step that completed: `repaint`, `tone_req`, and the event if there was one (R126). -/
  | completed (repaint toneReq : Bool) (event : Option UnknownEvent)
  /-- A step that faulted, or a step in the faulted state: `fault_code` and `repaint`; `tone_req` is 0 (R127, R128;
  log 6). -/
  | faulted (code : BitVec 3) (repaint : Bool)
  deriving DecidableEq, Repr

/-- The output `repaint`: the level of `draw_flag` after the step, faulted or not (R126, R127). -/
def StepReport.repaint : StepReport → Bool
  | .completed b _ _ => b
  | .faulted _ b => b

/-- The output `tone_req`: 0 in every step that does not complete (R127, R239). -/
def StepReport.toneReq : StepReport → Bool
  | .completed _ b _ => b
  | .faulted _ _ => false

/-- The output `UnknownInstruction`, where the step has one (R126, R221). -/
def StepReport.event : StepReport → Option UnknownEvent
  | .completed _ _ e => e
  | .faulted _ _ => none

/-- The one operation the decoder selects for a word (R123, R124). -/
def operation (w : Word) (s : State) : Result :=
  match decodeWord w with
  | .instr i => exec i s
  | .unknown _ => execUnknown s

/-- The event of a step that executed the word `w` at `pc` (R102, R221). -/
def eventOf (w pc : Word) : Option UnknownEvent :=
  match decodeWord w with
  | .instr _ => none
  | .unknown u => some ⟨u, pc⟩

/-- What a step in the faulted state, or one that has just faulted, reports (R127, R128). -/
def State.faultReport (s : State) : StepReport := .faulted s.latch.code s.drawFlag

/-- The end of a step whose operation left `t`: nothing more if it faulted (R128), else the tone output from the value
`sound` has now, the timer update, and the outputs (R125, R126). -/
def finish (t : State) (event : Option UnknownEvent) : State × StepReport :=
  if t.latch.fault then (t, t.faultReport)
  else (t.updateTimers, .completed t.drawFlag (t.sound == 1) event)

/-- One step with its outputs (R120). -/
def cycle (s : State) : Host.Outcome (State × StepReport) Fault Refusal :=
  if s.latch.fault then .next (s, s.faultReport)
  else
    match rangeFault s.pc.toNat 2 with
    | some info => .next (finish (s.raise .memRange info) none)
    | none =>
      match operation s.fetchWord s with
      | .next t => .next (finish t (eventOf s.fetchWord s.pc))
      | .fault f => .fault f
      | .refused r => .refused r

end Sys2Proof.Machine
end

