-- ==== Sys2Proof/Machine/Step.lean ====
section
/-! DEFINITION. `step`: the state part of the step cycle (R120), and how a word is placed where the next step fetches. -/

namespace Sys2Proof.Machine

/-- One step (R120), less its outputs, which `cycle` gives and no state holds (R35). -/
def step (s : State) : Host.Outcome State Fault Refusal :=
  match cycle s with
  | .next (t, _) => .next t
  | .fault f => .fault f
  | .refused r => .refused r

/-- `s` with the low `nbits` bits of `w` stored as an instruction at `pc`, first byte high (R62; log 16). -/
def State.withFetchWord (s : State) (nbits w : Nat) : State := s.withProgramBytes (tableWordBytes nbits w)

end Sys2Proof.Machine
end

