-- ==== Sys2Proof/Machine/Transactions.lean ====
section
/-! DEFINITION. The host interface (60_exceptions.md R242): seven atomic transactions, each between steps. -/

namespace Sys2Proof.Machine

/-- Why `loadProgram` failed (R228). -/
inductive LoadError where
  /-- The image would overflow memory (R265). -/
  | tooLong
  deriving DecidableEq, Repr

/-- `reset` in any state (R260, R261). The draw counter goes on: the seed after a reset is "fresh" (R33; log 2). -/
def State.hostReset (s : State) : State := State.reset.setDraws s.draws

/-- `loadProgram(bytes)`: all or nothing (R264, R265). -/
def State.loadProgram (s : State) (image : List Byte) : Except LoadError State :=
  if imageWellFormed image then .ok (s.setMem (s.mem.setBytes progBase image)) else .error .tooLong

/-- `setKey(k, pressed)` (R240). -/
def State.setKey (s : State) (k : Fin 16) (pressed : Bool) : State := s.setKeys (s.keys.set k pressed)

/-- `ackRepaint` (R241). -/
def State.ackRepaint (s : State) : State := s.setDrawFlag false

/-- `readDisplay(k)` (R241). -/
def State.readDisplay (s : State) (k : Fin 2048) : Bool := Display.cell s.display k.val

/-- The seven transactions (R242). R241 also lets the host read `draw_flag` between steps, and neither R242 nor D1 lists a
transaction for it: DESIGN CHOICE, none is added, the field `State.drawFlag` is that read and the step's `repaint` is its
value after a step; safe, log 19. -/
inductive Transaction where
  | reset
  | loadProgram (image : List Byte)
  | step
  | setKey (k : Fin 16) (pressed : Bool)
  | readDisplay (k : Fin 2048)
  | ackRepaint
  | readFault
  deriving DecidableEq, Repr

/-- What a transaction returns (R242). -/
inductive Response where
  /-- Nothing is returned; `loadProgram` returned ok. -/
  | done
  | loadError (e : LoadError)
  | stepped (r : StepReport)
  | cell (b : Bool)
  | latch (l : FaultLatch)
  deriving DecidableEq, Repr

/-- One transaction (R242). It answers in every state, `step` after a `LoadError` too: "if a host does step, the machine
behaves as its rules say on whatever memory holds" (U17); which moves a host may make is `lawful` below (R244). -/
def transact (t : Transaction) (s : State) : Host.Outcome (State × Response) Fault Refusal :=
  match t with
  | .reset => .next (s.hostReset, .done)
  | .loadProgram image =>
    match s.loadProgram image with
    | .ok u => .next (u, .done)
    | .error e => .next (s, .loadError e)
  | .step =>
    match cycle s with
    | .next (u, r) => .next (u, .stepped r)
    | .fault f => .fault f
    | .refused r => .refused r
  | .setKey k pressed => .next (s.setKey k pressed, .done)
  | .readDisplay k => .next (s, .cell (s.readDisplay k))
  | .ackRepaint => .next (s.ackRepaint, .done)
  | .readFault => .next (s, .latch s.latch)

/-! ## The lawful host (R244): the duties the core relies on and does not check -/

/-- Where a host stands with its duties. It is the host's own standing, no element of the machine (R20). -/
inductive HostPhase where
  /-- No `reset` performed yet (duty 1; R40). -/
  | beforeReset
  /-- Every transaction is lawful. -/
  | free
  /-- The last `loadProgram` failed (duty 4). -/
  | loadFailed
  deriving DecidableEq, Repr

/-- Whether the duties of R244 leave the host this move: nothing but `reset` before the first `reset` (duty 1), no `step`
after a `LoadError` (duty 4). Duties 2 and 3 are the total order of the list of transactions; duty 5 is the host's wish. -/
def HostPhase.allows : HostPhase → Transaction → Bool
  | .beforeReset, .reset => true
  | .beforeReset, _ => false
  | .free, _ => true
  | .loadFailed, .step => false
  | .loadFailed, _ => true

/-- The standing after a transaction: a load that fails takes the step away, a load that succeeds or a `reset` gives it
back. That `reset` does is a DESIGN CHOICE (R266 defines stepping after `reset` without a program); safe, log 21. -/
def HostPhase.after : HostPhase → Transaction → HostPhase
  | _, .reset => .free
  | _, .loadProgram image => if imageWellFormed image then .free else .loadFailed
  | p, .step => p
  | p, .setKey _ _ => p
  | p, .readDisplay _ => p
  | p, .ackRepaint => p
  | p, .readFault => p

/-- Whether a sequence of transactions breaks no duty, from a standing on. -/
def lawfulFrom : HostPhase → List Transaction → Bool
  | _, [] => true
  | p, q :: qs => p.allows q && lawfulFrom (p.after q) qs

/-- A lawful host run: it begins with `reset` and never steps after a `LoadError` (R244, U17). -/
def lawful (qs : List Transaction) : Bool := lawfulFrom .beforeReset qs

/-- A sequence of transactions, one after the other (R73, R242), with what they return. -/
def runHost : List Transaction → State → Host.Outcome (State × List Response) Fault Refusal
  | [], s => .next (s, [])
  | q :: qs, s =>
    match transact q s with
    | .next (t, a) =>
      match runHost qs t with
      | .next (u, rest) => .next (u, a :: rest)
      | .fault f => .fault f
      | .refused r => .refused r
    | .fault f => .fault f
    | .refused r => .refused r

end Sys2Proof.Machine
end

