-- ==== Sys2Proof/Safety.lean ====
section
/-! DEFINITION. What a run may be trusted for: the faulted state (R230), the invariant of reachable states (R39), and
the spec's suggestion for the end of a run (R275). -/

namespace Sys2Proof.Machine

/-- The machine has not faulted: "a claim about a program must show that no run reaches a fault" (R230). -/
def State.safe (s : State) : Bool := !s.latch.fault

/-- The latch is clear, or it holds one of the five codes and the `pc` the machine still has (R222, R229). -/
def State.latchConsistent (s : State) : Prop :=
  s.latch = FaultLatch.clear ∨
    (s.latch.fault = true ∧ (∃ f : Fault, s.latch.code = f.code) ∧ s.latch.pc = s.pc)

/-- Every return address held is the address of a `CALL` that was fetched, at most 0x0FFE (R39). -/
def State.stackConsistent (s : State) : Prop :=
  ∀ k : Fin 16, k.val < s.sp.val → s.stack[k].toNat ≤ 0x0FFE

/-- What every reachable state satisfies: memory in canonical form, the stack and the latch as R39, R229 say, and `pc`
no further than `JP V0` can reach (R143), so that its arithmetic never wraps (R24). -/
structure State.Inv (s : State) : Prop where
  memory : s.mem.wf = true
  stack : s.stackConsistent
  latch : s.latchConsistent
  pc : s.pc.toNat ≤ 0x10FE

/-- A state no further step changes: a jump to its own address, no fault, both timers 0 (R275, D34). -/
def State.final (s : State) : Prop :=
  s.latch.fault = false ∧ s.delay = 0 ∧ s.sound = 0 ∧ rangeFault s.pc.toNat 2 = none ∧
    ∃ nnn : Addr, s.fetchWord = 0x1#4 ++ nnn ∧ addrWord nnn = s.pc

end Sys2Proof.Machine
end

