-- ==== Sys2Proof/Certificates/Slice0/Obligations.lean ====
section
/-! DEFINITION. The statements for the provers, from the numbered rules of spec/. Nothing is proved here. -/

namespace Sys2Proof.Claims

open Sys2Proof.Machine

/-! ## Vocabulary -/

/-- The elements of the state one by one (R20), to say what an instruction leaves alone. -/
inductive Element where
  | v (r : RegIdx)
  | i
  | pc
  | stack (k : Fin 16)
  | sp
  | mem (a : Nat)
  | cell (k : Nat)
  | drawFlag
  | delay
  | sound
  | key (k : Fin 16)
  | latch
  | draws

/-- The element reads in `t` as it reads in `s`. -/
def Same (s t : State) : Element → Prop
  | .v r => t.reg r = s.reg r
  | .i => t.i = s.i
  | .pc => t.pc = s.pc
  | .stack k => t.stack[k] = s.stack[k]
  | .sp => t.sp = s.sp
  | .mem a => t.mem.get a = s.mem.get a
  | .cell k => Display.cell t.display k = Display.cell s.display k
  | .drawFlag => t.drawFlag = s.drawFlag
  | .delay => t.delay = s.delay
  | .sound => t.sound = s.sound
  | .key k => t.keys[k] = s.keys[k]
  | .latch => t.latch = s.latch
  | .draws => t.draws = s.draws

/-- Every element outside `allowed` is unchanged: the frame. -/
def ChangesOnly (s t : State) (allowed : Element → Prop) : Prop := ∀ e, ¬ allowed e → Same s t e

/-- The next step of `s` fetches in range, from a machine that has not faulted. -/
def Ready (s : State) : Prop := s.latch.fault = false ∧ s.pc.toNat ≤ 0x0FFE

/-- The next step of `s` runs the instruction `i`. -/
def Runs (s : State) (i : Instr) : Prop := Ready s ∧ decodeWord s.fetchWord = .instr i

/-- `pc` after an instruction that advances by `k` (R24). -/
def PcPlus (s t : State) (k : Nat) : Prop := t.pc.toNat = (s.pc.toNat + k) % 65536

/-- The latch after a fault with code `c` and information `info`, raised by a step at `s` (R229), nothing else changed
(R128). -/
def FaultsWith (s t : State) (c info : Nat) : Prop :=
  t.latch.fault = true ∧ t.latch.code.toNat = c ∧ t.latch.pc = s.pc ∧ t.latch.info.toNat = info ∧
    ChangesOnly s t (· = .latch)

/-- A 4-bit field holding a register number. -/
def nib (r : Fin 16) : BitVec 4 := BitVec.ofNat 4 r.val

/-- A flag bit as a register holds it (R22). -/
def bitByte (b : Bool) : Byte := if b then 0x01 else 0x00

/-- Sprite bit `(r, c)` of `DRW` is 1 and lands on cell `k` (R192): `MemRead(I + r, 1)[7 - c]` on cell
`(V[x] + c, V[y] + r)`. -/
def SpriteBitOn (s : State) (x y : RegIdx) (n : Fin 16) (k : Nat) : Prop :=
  ∃ r c : Nat, r < n.val ∧ c < 8 ∧ (s.mem.get (s.i.toNat + r)).getLsbD (7 - c) = true ∧
    k = ((s.reg y).toNat + r) * 64 + ((s.reg x).toNat + c)

/-- The sprite's bytes lie in memory (R191). -/
def SpriteReadable (s : State) (n : Fin 16) : Prop := n.val = 0 ∨ s.i.toNat + n.val - 1 ≤ 4095

/-- The sprite's rectangle lies on the display (R191). -/
def SpriteOnDisplay (s : State) (x y : RegIdx) (n : Fin 16) : Prop :=
  n.val = 0 ∨ ((s.reg x).toNat + 7 ≤ 63 ∧ (s.reg y).toNat + n.val - 1 ≤ 31)

/-- The flag-writing instructions (R22). -/
def writesFlag : Instr → Bool
  | .addReg .. | .sub .. | .subn .. | .shr .. | .shl .. | .drw .. => true
  | _ => false

/-- Register 15 is the ordinary destination of the instruction (R22). -/
def namesFlagAsDestination : Instr → Bool
  | .ldImm x _ | .addImm x _ | .ldReg x _ | .orReg x _ | .andReg x _ | .xorReg x _ | .rnd x _ | .ldFromDt x
  | .ldKey x | .loadRegs x => x == VF
  | _ => false

/-- The mnemonic of an instruction's row in spec/opcode_table.json. -/
def mnemonicOf : Instr → String
  | .cls => "CLS"
  | .ret => "RET"
  | .jp _ => "JP_nnn"
  | .call _ => "CALL_nnn"
  | .seImm .. => "SE_Vx__nn"
  | .sneImm .. => "SNE_Vx__nn"
  | .seReg .. => "SE_Vx__Vy"
  | .ldImm .. => "LD_Vx__nn"
  | .addImm .. => "ADD_Vx__nn"
  | .ldReg .. => "LD_Vx__Vy"
  | .orReg .. => "OR_Vx__Vy"
  | .andReg .. => "AND_Vx__Vy"
  | .xorReg .. => "XOR_Vx__Vy"
  | .addReg .. => "ADD_Vx__Vy"
  | .sub .. => "SUB_Vx__Vy"
  | .shr .. => "SHR_Vx"
  | .subn .. => "SUBN_Vx__Vy"
  | .shl .. => "SHL_Vx"
  | .sneReg .. => "SNE_Vx__Vy"
  | .ldI _ => "LD_I__nnn"
  | .jpV0 _ => "JP_V0__nnn"
  | .rnd .. => "RND_Vx__nn"
  | .drw .. => "DRW_Vx__Vy__n"
  | .skp _ => "SKP_Vx"
  | .sknp _ => "SKNP_Vx"
  | .ldFromDt _ => "LD_Vx__DT"
  | .ldKey _ => "LD_Vx__K"
  | .ldDt _ => "LD_DT__Vx"
  | .ldSt _ => "LD_ST__Vx"
  | .addI _ => "ADD_I__Vx"
  | .ldF _ => "LD_F__Vx"
  | .ldBcd _ => "LD_B__Vx"
  | .storeRegs _ => "LD__I___Vx"
  | .loadRegs _ => "LD_Vx___I"

/-- The condition of a skip, where the skip has one (R150 to R155). -/
def skipCondition (s : State) : Instr → Option Bool
  | .seImm x nn => some (s.reg x == nn)
  | .sneImm x nn => some (s.reg x != nn)
  | .seReg x y => some (s.reg x == s.reg y)
  | .sneReg x y => some (s.reg x != s.reg y)
  | .skp x => some (s.keys.toList.getD (s.reg x).toNat false)
  | .sknp x => some (!s.keys.toList.getD (s.reg x).toNat false)
  | _ => none

/-- The table of R130: `pc` after the operation, before reduction modulo 65536. -/
def pcTable (s : State) (i : Instr) : Nat :=
  match i with
  | .jp nnn => nnn.toNat
  | .call nnn => nnn.toNat
  | .ret => (s.stack.toList.getD (s.sp.val - 1) 0).toNat + 2
  | .jpV0 nnn => nnn.toNat + (s.reg 0).toNat
  | .ldKey _ => if s.keys.toList.contains true then s.pc.toNat + 2 else s.pc.toNat
  | i =>
    match skipCondition s i with
    | some true => s.pc.toNat + 4
    | _ => s.pc.toNat + 2

/-- The table of R222 with the order of R233: which fault a step at `s` raises (its code and information), if any. -/
def faultTable (s : State) : Option (Nat × Nat) :=
  if s.pc.toNat > 4094 then some (1, max s.pc.toNat 4096)
  else
    match decodeWord s.fetchWord with
    | .instr (.call _) => if s.sp.val = 16 then some (2, 16) else none
    | .instr .ret => if s.sp.val = 0 then some (3, 0) else none
    | .instr (.drw x y n) =>
      if n.val > 0 ∧ s.i.toNat + n.val - 1 > 4095 then some (1, max s.i.toNat 4096)
      else if n.val > 0 ∧ ((s.reg x).toNat + 7 > 63 ∨ (s.reg y).toNat + n.val - 1 > 31) then
        some (4, (s.reg y).toNat * 256 + (s.reg x).toNat)
      else none
    | .instr (.skp x) => if (s.reg x).toNat > 15 then some (5, (s.reg x).toNat) else none
    | .instr (.sknp x) => if (s.reg x).toNat > 15 then some (5, (s.reg x).toNat) else none
    | .instr (.ldBcd _) => if s.i.toNat + 2 > 4095 then some (1, max s.i.toNat 4096) else none
    | .instr (.storeRegs x) => if s.i.toNat + x.val > 4095 then some (1, max s.i.toNat 4096) else none
    | .instr (.loadRegs x) => if s.i.toNat + x.val > 4095 then some (1, max s.i.toNat 4096) else none
    | _ => none

/-- The byte the two storing instructions store at address `a`, if they store there (R210, R211). -/
def storedByte (s : State) (i : Instr) (a : Nat) : Option Byte :=
  match i with
  | .ldBcd x =>
    if a = s.i.toNat then some (BitVec.ofNat 8 ((s.reg x).toNat / 100))
    else if a = s.i.toNat + 1 then some (BitVec.ofNat 8 ((s.reg x).toNat / 10 % 10))
    else if a = s.i.toNat + 2 then some (BitVec.ofNat 8 ((s.reg x).toNat % 10))
    else none
  | .storeRegs x => if s.i.toNat ≤ a ∧ a ≤ s.i.toNat + x.val then s.v.toList[a - s.i.toNat]? else none
  | _ => none

end Sys2Proof.Claims

open Sys2Proof Sys2Proof.Machine Sys2Proof.Claims

/-! ## Encoding (30_encoding.md) -/

/-- Words written out from the spec's encodings decode as the spec says, one of each family and several that are no
instruction (95_test_vectors.md V1; R108). Most opcode numbers are the spec's own choice (D13, log 10). -/
def Obligations.SpecWordsDecodeAsTheSpecSays : Prop :=
  decodeWord 0x00E0 = .instr .cls ∧ decodeWord 0x00EE = .instr .ret ∧
  decodeWord 0x1234 = .instr (.jp 0x234) ∧ decodeWord 0x2210 = .instr (.call 0x210) ∧
  decodeWord 0x3F01 = .instr (.seImm 15 0x01) ∧ decodeWord 0x4310 = .instr (.sneImm 3 0x10) ∧
  decodeWord 0x5120 = .instr (.seReg 1 2) ∧ decodeWord 0x60EA = .instr (.ldImm 0 0xEA) ∧
  decodeWord 0x70FF = .instr (.addImm 0 0xFF) ∧ decodeWord 0x8AB4 = .instr (.addReg 10 11) ∧
  decodeWord 0x9120 = .instr (.sneReg 1 2) ∧ decodeWord 0xA300 = .instr (.ldI 0x300) ∧
  decodeWord 0xB2F0 = .instr (.jpV0 0x2F0) ∧ decodeWord 0xC10F = .instr (.rnd 1 0x0F) ∧
  decodeWord 0xD123 = .instr (.drw 1 2 3) ∧ decodeWord 0xE4A1 = .instr (.sknp 4) ∧
  decodeWord 0xF365 = .instr (.loadRegs 3) ∧
  decodeWord 0x5121 = .unknown 0x5121 ∧ decodeWord 0x01E0 = .unknown 0x01E0 ∧
  decodeWord 0x8AB8 = .unknown 0x8AB8 ∧ decodeWord 0xF175 = .unknown 0xF175

/-- Decoding the word of any instruction gives the instruction back, every operand at every value (R92, R93, R108).
Most opcode numbers are the spec's own choice (D13, log 10). -/
def Obligations.DecodeOfEncodeIsTheInstruction : Prop :=
  ∀ i : Instr, decodeWord (encode i) = .instr i

/-- Each word has one meaning (R102): the word of a decoded instruction is the word it was decoded from. That no bit of
families 5 and 9 is dropped rests on their strict low nibble (D12, log 10), and that none of `SHR` and `SHL` is on the
model's keeping the ignored `y` field in `Instr` (D11, log 9); no rule states the round trip. -/
def Obligations.EncodeOfDecodeIsTheWord : Prop :=
  ∀ (w : Word) (i : Instr), decodeWord w = .instr i → encode i = w

/-- The decoder against the opcode table (R102, R123): no word is selected by two rows, a word selected by a row
decodes to that row's instruction, and a word no row selects is the unknown instruction. That families 5 and 9 need a
zero low nibble and that `0nnn` is unknown are the spec's own choices (D12, D33, log 10). -/
def Obligations.DecoderSelectsTheUniqueMatchingRow : Prop :=
  ∀ w : Word,
    (∀ r₁ ∈ opcodeTable, ∀ r₂ ∈ opcodeTable, w &&& r₁.mask = r₁.fixed → w &&& r₂.mask = r₂.fixed → r₁ = r₂) ∧
    (∀ r ∈ opcodeTable, w &&& r.mask = r.fixed → ∃ i, decodeWord w = .instr i ∧ mnemonicOf i = r.mnemonic) ∧
    ((∀ r ∈ opcodeTable, w &&& r.mask ≠ r.fixed) → decodeWord w = .unknown w)

/-! ## The step cycle (40_step_cycle.md) -/

/-- The byte order of the fetch (R62). -/
def Obligations.FetchIsBigEndian : Prop :=
  ∀ s : State,
    s.fetchWord.toNat = (s.mem.get s.pc.toNat).toNat * 256 + (s.mem.get (s.pc.toNat + 1)).toNat

/-- A step runs the decoded instruction (R120 to R128): `exec` of it, then the timer update unless it faulted. That a
faulting step has no timer update is the spec's own choice (R128, D3, log 5), and so is the update in every completed
step, a key wait included (D18, log 13). -/
def Obligations.StepRunsTheDecodedInstruction : Prop :=
  ∀ (s t : State) (i : Instr), s.latch.fault = false → s.pc.toNat ≤ 0x0FFE →
    decodeWord (s.mem.get s.pc.toNat ++ s.mem.get (s.pc.toNat + 1)) = .instr i → exec i s = .next t →
    step s = .next (if t.latch.fault then t else
      { t with delay := (if t.delay = 0 then 0 else t.delay - 1), sound := (if t.sound = 0 then 0 else t.sound - 1) })

/-- A word that matches no row is executed as a no-op with an event (R221): `pc + 2`, the timers, the report, nothing
else. The spec's own choices: what the event holds (D23, log 19), that the timers run in such a step (D18, log 13), that
`repaint` is the sticky flag and the tone a level of the one step (D19, D28, log 20). -/
def Obligations.UnknownWordIsANoOpWithAnEvent : Prop :=
  ∀ s : State, Ready s → (∀ r ∈ opcodeTable, s.fetchWord &&& r.mask ≠ r.fixed) →
    ∃ t, cycle s = .next (t, .completed s.drawFlag (s.sound == 1) (some ⟨s.fetchWord, s.pc⟩)) ∧ step s = .next t ∧
      PcPlus s t 2 ∧ t.delay.toNat = s.delay.toNat - 1 ∧ t.sound.toNat = s.sound.toNat - 1 ∧
      ChangesOnly s t fun e => e = .pc ∨ e = .delay ∨ e = .sound

/-- A fetch that needs an address above 4095 faults, and nothing but the latch changes (R121, R223). That it faults is
the spec's own choice (D2, D3, log 5, log 11). The `repaint` output of the step that faults is the model's reading,
since R128 does not give it (log 6). -/
def Obligations.FetchAboveMemoryFaults : Prop :=
  ∀ s : State, s.latch.fault = false → 0x0FFE < s.pc.toNat →
    ∃ t, cycle s = .next (t, .faulted 1 s.drawFlag) ∧ step s = .next t ∧
      FaultsWith s t 1 (if s.pc.toNat > 4095 then s.pc.toNat else 4096)

/-- A step in the faulted state changes nothing and reports the latched code; `repaint` is the level of `draw_flag`
and `tone_req` is 0 (R127). The latch is the spec's own choice (D3, log 5). -/
def Obligations.FaultedMachineIsStuck : Prop :=
  ∀ s : State, s.latch.fault = true →
    step s = .next s ∧ ∃ r, cycle s = .next (s, r) ∧ r = .faulted s.latch.code s.drawFlag ∧
      r.repaint = s.drawFlag ∧ r.toneReq = false

/-- A step faults exactly where the table of R222 says, with its code and information, in the order of R233, commits
nothing but the latch (R128, R229), and reports the fault's code in place of its outputs, with no tone and no event
(R126, R128, R242); any other step leaves the latch alone and reports that it completed. The faults are the spec's own
choice (D2, D3, D7, D15, D17, D30, D31, log 5, log 11), and so is the tone's being 0 in a faulting step (D28, log 20).
-/
def Obligations.FaultsAreExactlyThoseOfTheTable : Prop :=
  ∀ s : State, s.latch.fault = false → ∃ t r, cycle s = .next (t, r) ∧ step s = .next t ∧
    match faultTable s with
    | some (c, info) =>
      FaultsWith s t c info ∧ (∃ code b, r = .faulted code b ∧ code.toNat = c) ∧ r.toneReq = false ∧ r.event = none
    | none => t.latch = s.latch ∧ ∃ b c e, r = .completed b c e

/-- The timers and the outputs of a completed step (R125, R126): the value the operation left is what is tested and
decremented. The spec's own choices: that the timers run in every completed step (D18, log 13), that `repaint` is the
sticky flag and the tone a level of one step (D19, D28, log 20), that the event holds the word and its `pc` (D23, log
19). -/
def Obligations.CompletedStepTicksTimersAndReports : Prop :=
  ∀ (s t : State) (r : StepReport), Ready s → cycle s = .next (t, r) → t.latch.fault = false →
    ∃ opDelay opSound : Byte,
      (∀ x, decodeWord s.fetchWord = .instr (.ldDt x) → opDelay = s.reg x) ∧
      ((∀ x, decodeWord s.fetchWord ≠ .instr (.ldDt x)) → opDelay = s.delay) ∧
      (∀ x, decodeWord s.fetchWord = .instr (.ldSt x) → opSound = s.reg x) ∧
      ((∀ x, decodeWord s.fetchWord ≠ .instr (.ldSt x)) → opSound = s.sound) ∧
      t.delay.toNat = opDelay.toNat - 1 ∧ t.sound.toNat = opSound.toNat - 1 ∧
      r.repaint = t.drawFlag ∧ r.toneReq = (opSound == 1) ∧
      (∃ b c e, r = .completed b c e) ∧
      ((∃ i, decodeWord s.fetchWord = .instr i) → r.event = none) ∧
      ((∀ i, decodeWord s.fetchWord ≠ .instr i) → r.event = some ⟨s.fetchWord, s.pc⟩)

/-- There is no halt: every state has a successor, and every instruction answers one. R131 says so of a state with
`fault = 0` whose `pc` is at most 0x0FFE; that a faulted state, a faulting fetch and a faulting instruction have a
successor too is the spec's latch and the model's answer to it (R127, R128, D3, log 5). -/
def Obligations.EveryStepHasASuccessor : Prop :=
  (∀ s : State, ∃ t, step s = .next t) ∧ ∀ (i : Instr) (s : State), ∃ t, exec i s = .next t

/-- The advance of `pc`, all instructions together (R130). The rule is marked as derived by the spec. -/
def Obligations.PcAdvancesAsTheTableSays : Prop :=
  ∀ s t : State, Ready s → step s = .next t →
    (t.latch.fault = true → t.pc = s.pc) ∧
    (t.latch.fault = false →
      (∀ i, decodeWord s.fetchWord = .instr i → t.pc.toNat = pcTable s i % 65536) ∧
      ((∀ i, decodeWord s.fetchWord ≠ .instr i) → t.pc.toNat = (s.pc.toNat + 2) % 65536))

/-! ## Promises about the whole machine -/

/-- A step never writes a key flag and never clears the repaint flag (R129, R29, R32). -/
def Obligations.StepNeverWritesKeysNorClearsDrawFlag : Prop :=
  ∀ s t : State, step s = .next t →
    (∀ k : Fin 16, t.keys[k] = s.keys[k]) ∧ (s.drawFlag = true → t.drawFlag = true)

/-- Only `LD B` and `LD [I], Vx` write memory (R65), and only inside their ranges (R70). That the range lies at or below
4095 whenever a byte changes, because the instruction faults otherwise with nothing written, is the spec's own choice
(D2, D30, log 11). -/
def Obligations.OnlyBcdAndDumpWriteMemory : Prop :=
  ∀ (s t : State) (a : Nat), step s = .next t → t.mem.get a ≠ s.mem.get a →
    ∃ x, (Runs s (.ldBcd x) ∧ s.i.toNat ≤ a ∧ a ≤ s.i.toNat + 2 ∧ s.i.toNat + 2 ≤ 4095) ∨
      (Runs s (.storeRegs x) ∧ s.i.toNat ≤ a ∧ a ≤ s.i.toNat + x.val ∧ s.i.toNat + x.val ≤ 4095)

/-- Only `CLS` and `DRW` write the display or the repaint flag (R28, R29). -/
def Obligations.OnlyClsAndDrwWriteTheDisplay : Prop :=
  ∀ s t : State, step s = .next t →
    ((∃ k, Display.cell t.display k ≠ Display.cell s.display k) ∨ t.drawFlag ≠ s.drawFlag) →
    Runs s .cls ∨ ∃ x y n, Runs s (.drw x y n)

/-- Only `CALL` writes a slot, the one at `sp`, and only `CALL` and `RET` move `sp` (R25, R26). The place of the slot
is the spec's own choice (D6, log 14). -/
def Obligations.OnlyCallAndRetUseTheStack : Prop :=
  ∀ s t : State, step s = .next t →
    (∀ k : Fin 16, t.stack[k] ≠ s.stack[k] → k.val = s.sp.val ∧ ∃ nnn, Runs s (.call nnn)) ∧
    (t.sp ≠ s.sp → (t.sp.val = s.sp.val + 1 ∧ ∃ nnn, Runs s (.call nnn)) ∨
      (t.sp.val + 1 = s.sp.val ∧ Runs s .ret))

/-- `I` is written only by `LD I, nnn`, `ADD I, Vx` and `LD F, Vx` (R23). -/
def Obligations.OnlyThreeInstructionsWriteI : Prop :=
  ∀ s t : State, step s = .next t → t.i ≠ s.i →
    (∃ nnn, Runs s (.ldI nnn)) ∨ (∃ x, Runs s (.addI x)) ∨ ∃ x, Runs s (.ldF x)

/-- `V[15]` changes only by a flag-writing instruction or as an ordinary destination, and a flag-writing instruction
that completes leaves 0x00 or 0x01 in it (R22). The spec's own choices: that this holds when `V[15]` is the result
register too (D8, log 8), that the borrow is one bit (D9, log 4), that `OR`, `AND`, `XOR` and the copy leave `VF` (N13,
log 9). -/
def Obligations.FlagRegisterIsWrittenOnlyByItsWriters : Prop :=
  ∀ s t : State, step s = .next t →
    (t.reg VF ≠ s.reg VF → ∃ i, Runs s i ∧ (writesFlag i = true ∨ namesFlagAsDestination i = true)) ∧
    (∀ i, Runs s i → writesFlag i = true → t.latch.fault = false → t.reg VF = 0x00 ∨ t.reg VF = 0x01)

/-- Exactly one draw is taken by an executed `RND` and none by any other step (R183). The counter is the model's own
field (log 2). -/
def Obligations.OnlyRndTakesADraw : Prop :=
  ∀ s t : State, step s = .next t →
    ((∃ x nn, Runs s (.rnd x nn)) → t.draws = s.draws + 1) ∧
    ((∀ x nn, ¬ Runs s (.rnd x nn)) → t.draws = s.draws)

/-- A program can learn a cell's value only through the collision flag of `DRW` (R28, R193): two machines that differ in
the display only step to machines that differ in the display only, and, when the step draws, in `V[15]`. It compares two
runs: at an `RND` both take the same byte because their draw counters are equal, which is the model's choice and need
not hold of two hardware runs (log 2). -/
def Obligations.DisplayIsSeenOnlyThroughTheCollisionFlag : Prop :=
  ∀ (s t u : State) (d : Display), step s = .next t → step { s with display := d } = .next u →
    { u with display := t.display, v := t.v } = t ∧
    (∀ r : RegIdx, u.reg r = t.reg r ∨ (r = VF ∧ ∃ x y n, Runs s (.drw x y n)))

/-! ## Invariants -/

/-- The reset state satisfies the invariant (R38, R39). -/
def Obligations.ResetSatisfiesTheInvariant : Prop := State.reset.Inv

/-- Every step keeps the invariant (R39): memory in canonical form, return addresses at most 0x0FFE, the latch clear or
consistent, `pc` at most 0x10FE. The bound on `pc` and the form of memory are the model's derivation, not a rule. -/
def Obligations.StepKeepsTheInvariant : Prop :=
  ∀ s t : State, s.Inv → step s = .next t → t.Inv

/-- Every transaction of the host keeps the invariant (R36, R242). -/
def Obligations.TransactionsKeepTheInvariant : Prop :=
  ∀ (q : Transaction) (s t : State) (a : Response), s.Inv → transact q s = .next (t, a) → t.Inv

/-- A state that is final in the sense of R275 is a fixed point of the step. The definition is the spec's suggestion
(D34, log 20). -/
def Obligations.FinalStateIsAFixedPoint : Prop :=
  ∀ s : State, s.final → step s = .next s

/-! ## Reset, loading, the host interface -/

/-- The testable property of reset (R262), whatever the open parameter `FONT_TABLE` is. -/
def Obligations.ResetLeavesTheStatedValues : Prop :=
  (∀ a, a < 80 → some (State.reset.mem.get a) = fontTable[a]?) ∧
  (∀ a, 80 ≤ a → a < 4096 → State.reset.mem.get a = 0) ∧
  State.reset.pc = 0x200 ∧ State.reset.sp = 0 ∧ State.reset.i = 0 ∧
  (∀ r : RegIdx, State.reset.reg r = 0) ∧ (∀ k : Fin 16, State.reset.stack[k] = 0) ∧
  (∀ k : Fin 16, State.reset.keys[k] = false) ∧ State.reset.delay = 0 ∧ State.reset.sound = 0

/-- The transaction `reset` puts any state, the faulted one included, in the reset state, and is idempotent (R260, R261).
That the draw counter goes on is the model's choice (log 2). -/
def Obligations.HostResetWorksFromAnyState : Prop :=
  ∀ s : State, ∃ t, transact .reset s = .next (t, .done) ∧ t = { State.reset with draws := s.draws } ∧
    transact .reset t = .next (t, .done) ∧ t.latch.fault = false ∧
    ∀ k, Display.cell t.display k = false

/-- `loadProgram` (R264, R265): an image of at most 3584 bytes is written from 0x200 on and nothing else changes; a
longer one is refused and changes nothing. All-or-nothing is the spec's own choice (D22, log 19). -/
def Obligations.LoadProgramWritesTheImageOrNothing : Prop :=
  ∀ (s : State) (image : List Byte),
    (image.length ≤ 3584 → ∃ t, transact (.loadProgram image) s = .next (t, .done) ∧
      (∀ k, (h : k < image.length) → t.mem.get (0x200 + k) = image[k]) ∧
      ChangesOnly s t fun e => ∃ k, k < image.length ∧ e = .mem (0x200 + k)) ∧
    (3584 < image.length → transact (.loadProgram image) s = .next (s, .loadError .tooLong))

/-- `setKey` writes one key flag and nothing else (R240). The transaction is the spec's own form (D27, log 19). -/
def Obligations.SetKeyWritesOneFlag : Prop :=
  ∀ (s : State) (k : Fin 16) (pressed : Bool), ∃ t, transact (.setKey k pressed) s = .next (t, .done) ∧
    t.keys[k] = pressed ∧ ChangesOnly s t (· = .key k)

/-- The display port (R241) and the fault read-out: `readDisplay` and `readFault` change nothing, `ackRepaint` writes
`draw_flag <- 0` and nothing else. The transactions are the spec's own form (D1, log 19); that cell `k` is bit `k mod
64` of row `k / 64` is the model's layout (log 7). -/
def Obligations.DisplayAndFaultPortsOnlyReadOrAcknowledge : Prop :=
  ∀ s : State,
    (∀ k : Fin 2048, transact (.readDisplay k) s = .next (s, .cell ((s.display[k.val / 64]'(by omega)).getLsbD (k.val % 64)))) ∧
    transact .readFault s = .next (s, .latch s.latch) ∧
    ∃ t, transact .ackRepaint s = .next (t, .done) ∧ t.drawFlag = false ∧ ChangesOnly s t (· = .drawFlag)

/-- A word placed by `withFetchWord` is the word the next step fetches, and only the two bytes at `pc` change (the
model's convention, log 16). -/
def Obligations.PlacedWordIsFetched : Prop :=
  ∀ (s : State) (w : Word), s.pc.toNat ≤ 0x0FFE →
    (s.withFetchWord 16 w.toNat).fetchWord = w ∧
    ChangesOnly s (s.withFetchWord 16 w.toNat) fun e => e = .mem s.pc.toNat ∨ e = .mem (s.pc.toNat + 1)

/-! ## Control flow (41_control_flow.md) -/

/-- `JP nnn` and `JP V0, nnn` (R140, R143): encoding, target, and nothing else written. The opcode numbers are the
spec's own choice (D13, log 10), here and in the instruction statements below; that the sum of `JP V0` is not reduced
modulo 4096 is too (D2, log 18). -/
def Obligations.JumpsSetPcAndNothingElse : Prop :=
  ∀ (nnn : Addr) (s : State),
    decodeWord (0x1#4 ++ nnn) = .instr (.jp nnn) ∧ decodeWord (0xB#4 ++ nnn) = .instr (.jpV0 nnn) ∧
    (∃ t, exec (.jp nnn) s = .next t ∧ t.pc.toNat = nnn.toNat ∧ ChangesOnly s t (· = .pc)) ∧
    ∃ t, exec (.jpV0 nnn) s = .next t ∧ t.pc.toNat = nnn.toNat + (s.reg 0).toNat ∧ ChangesOnly s t (· = .pc)

/-- `CALL nnn` (R141): it pushes its own address and jumps, or faults with the stack full. The slot's place and the
fault are the spec's own choices (D6, D7, log 11, log 14). -/
def Obligations.CallPushesItsOwnAddressOrOverflows : Prop :=
  ∀ (nnn : Addr) (s : State),
    decodeWord (0x2#4 ++ nnn) = .instr (.call nnn) ∧
    (∀ k : Fin 16, s.sp.val = k.val → ∃ t, exec (.call nnn) s = .next t ∧
      t.stack[k] = s.pc ∧ t.sp.val = k.val + 1 ∧ t.pc.toNat = nnn.toNat ∧
      ChangesOnly s t fun e => e = .stack k ∨ e = .sp ∨ e = .pc) ∧
    (s.sp.val = 16 → ∃ t, exec (.call nnn) s = .next t ∧ FaultsWith s t 2 16)

/-- `RET` (R142): it resumes 2 after the last pushed address, or faults with the stack empty. The slot's place and
the fault are the spec's own choices (D6, D7, log 11, log 14). -/
def Obligations.RetResumesAfterTheCallOrUnderflows : Prop :=
  ∀ s : State,
    decodeWord 0x00EE = .instr .ret ∧
    (∀ k : Fin 16, s.sp.val = k.val + 1 → ∃ t, exec .ret s = .next t ∧
      t.sp.val = k.val ∧ t.pc.toNat = (s.stack[k].toNat + 2) % 65536 ∧
      ChangesOnly s t fun e => e = .sp ∨ e = .pc) ∧
    (s.sp.val = 0 → ∃ t, exec .ret s = .next t ∧ FaultsWith s t 3 0)

/-- `CALL` then, with the stack as it left it, `RET`: the machine resumes after the call with the pointer restored (R141,
R142). -/
def Obligations.RetAfterCallResumesAfterTheCall : Prop :=
  ∀ (nnn : Addr) (s t u : State), s.sp.val < 16 → exec (.call nnn) s = .next t → u.stack = t.stack → u.sp = t.sp →
    ∃ w, exec .ret u = .next w ∧ PcPlus s w 2 ∧ w.sp = s.sp

/-! ## Skips (42_skip.md) -/

/-- The four comparing skips (R150 to R153, R156): `pc + 4` when the condition holds, `pc + 2` when not, nothing else.
Which of families 3, 4, 5, 9 is which skip is the spec's own choice (D13, log 10). -/
def Obligations.ComparingSkipsMovePcByFourOrTwo : Prop :=
  ∀ (x y : RegIdx) (nn : Byte) (s : State),
    (decodeWord (0x3#4 ++ nib x ++ nn) = .instr (.seImm x nn) ∧ ∃ t, exec (.seImm x nn) s = .next t ∧
      PcPlus s t (if s.reg x = nn then 4 else 2) ∧ ChangesOnly s t (· = .pc)) ∧
    (decodeWord (0x4#4 ++ nib x ++ nn) = .instr (.sneImm x nn) ∧ ∃ t, exec (.sneImm x nn) s = .next t ∧
      PcPlus s t (if s.reg x = nn then 2 else 4) ∧ ChangesOnly s t (· = .pc)) ∧
    (decodeWord (0x5#4 ++ nib x ++ nib y ++ 0x0#4) = .instr (.seReg x y) ∧ ∃ t, exec (.seReg x y) s = .next t ∧
      PcPlus s t (if s.reg x = s.reg y then 4 else 2) ∧ ChangesOnly s t (· = .pc)) ∧
    (decodeWord (0x9#4 ++ nib x ++ nib y ++ 0x0#4) = .instr (.sneReg x y) ∧ ∃ t, exec (.sneReg x y) s = .next t ∧
      PcPlus s t (if s.reg x = s.reg y then 2 else 4) ∧ ChangesOnly s t (· = .pc))

/-- `SKP` and `SKNP` (R154, R155): the level of the key the whole byte `V[x]` names, or `KeyRangeFault` when it is
above 15. The fault is the spec's own choice (D17, log 11). -/
def Obligations.KeySkipsTestOneKeyOrFault : Prop :=
  ∀ (x : RegIdx) (s : State),
    decodeWord (0xE#4 ++ nib x ++ 0x9E#8) = .instr (.skp x) ∧
    decodeWord (0xE#4 ++ nib x ++ 0xA1#8) = .instr (.sknp x) ∧
    (∀ k : Fin 16, (s.reg x).toNat = k.val →
      (∃ t, exec (.skp x) s = .next t ∧ PcPlus s t (if s.keys[k] = true then 4 else 2) ∧
        ChangesOnly s t (· = .pc)) ∧
      ∃ t, exec (.sknp x) s = .next t ∧ PcPlus s t (if s.keys[k] = true then 2 else 4) ∧
        ChangesOnly s t (· = .pc)) ∧
    (15 < (s.reg x).toNat →
      (∃ t, exec (.skp x) s = .next t ∧ FaultsWith s t 5 (s.reg x).toNat) ∧
      ∃ t, exec (.sknp x) s = .next t ∧ FaultsWith s t 5 (s.reg x).toNat)

/-! ## Register load and arithmetic (43_register_alu.md) -/

/-- `LD Vx, nn`, `ADD Vx, nn`, `LD Vx, Vy` (R160, R161, R162): the destination and `pc`, no flag. The opcode numbers are
the spec's own choice (D13, log 10), and that the copy leaves `VF` is its reading of the source's silence (N13, log 9).
-/
def Obligations.LoadsAndAddImmediateWriteOneRegister : Prop :=
  ∀ (x y : RegIdx) (nn : Byte) (s : State),
    (decodeWord (0x6#4 ++ nib x ++ nn) = .instr (.ldImm x nn) ∧ ∃ t, exec (.ldImm x nn) s = .next t ∧
      t.reg x = nn ∧ PcPlus s t 2 ∧ ChangesOnly s t fun e => e = .v x ∨ e = .pc) ∧
    (decodeWord (0x7#4 ++ nib x ++ nn) = .instr (.addImm x nn) ∧ ∃ t, exec (.addImm x nn) s = .next t ∧
      (t.reg x).toNat = ((s.reg x).toNat + nn.toNat) % 256 ∧ PcPlus s t 2 ∧
      ChangesOnly s t fun e => e = .v x ∨ e = .pc) ∧
    (decodeWord (0x8#4 ++ nib x ++ nib y ++ 0x0#4) = .instr (.ldReg x y) ∧ ∃ t, exec (.ldReg x y) s = .next t ∧
      t.reg x = s.reg y ∧ PcPlus s t 2 ∧ ChangesOnly s t fun e => e = .v x ∨ e = .pc)

/-- `OR`, `AND`, `XOR` (R164, R165, R166): bit by bit, no flag. That `VF` is unchanged is the spec's reading of the source's
silence (log 9). -/
def Obligations.LogicActsBitByBitWithoutFlag : Prop :=
  ∀ (x y : RegIdx) (s : State),
    (decodeWord (0x8#4 ++ nib x ++ nib y ++ 0x1#4) = .instr (.orReg x y) ∧ ∃ t, exec (.orReg x y) s = .next t ∧
      (∀ j, j < 8 → (t.reg x).getLsbD j = ((s.reg x).getLsbD j || (s.reg y).getLsbD j)) ∧
      PcPlus s t 2 ∧ ChangesOnly s t fun e => e = .v x ∨ e = .pc) ∧
    (decodeWord (0x8#4 ++ nib x ++ nib y ++ 0x2#4) = .instr (.andReg x y) ∧ ∃ t, exec (.andReg x y) s = .next t ∧
      (∀ j, j < 8 → (t.reg x).getLsbD j = ((s.reg x).getLsbD j && (s.reg y).getLsbD j)) ∧
      PcPlus s t 2 ∧ ChangesOnly s t fun e => e = .v x ∨ e = .pc) ∧
    (decodeWord (0x8#4 ++ nib x ++ nib y ++ 0x3#4) = .instr (.xorReg x y) ∧ ∃ t, exec (.xorReg x y) s = .next t ∧
      (∀ j, j < 8 → (t.reg x).getLsbD j = ((s.reg x).getLsbD j ^^ (s.reg y).getLsbD j)) ∧
      PcPlus s t 2 ∧ ChangesOnly s t fun e => e = .v x ∨ e = .pc)

/-- `ADD Vx, Vy` (R167): the sum modulo 256 unless the flag overwrites it, and the AND heuristic in `V[15]`. That the
flag wins over the sum in `V[15]` is the spec's own choice (D8, log 8). -/
def Obligations.AddSetsTheAndHeuristicFlag : Prop :=
  ∀ (x y : RegIdx) (s : State),
    decodeWord (0x8#4 ++ nib x ++ nib y ++ 0x4#4) = .instr (.addReg x y) ∧
    ∃ t, exec (.addReg x y) s = .next t ∧
      (x ≠ VF → (t.reg x).toNat = ((s.reg x).toNat + (s.reg y).toNat) % 256) ∧
      ((∃ j, j < 8 ∧ (s.reg x).getLsbD j = true ∧ (s.reg y).getLsbD j = true) → t.reg VF = 0x01) ∧
      ((∀ j, j < 8 → ¬ ((s.reg x).getLsbD j = true ∧ (s.reg y).getLsbD j = true)) → t.reg VF = 0x00) ∧
      PcPlus s t 2 ∧ ChangesOnly s t fun e => e = .v x ∨ e = .v VF ∨ e = .pc

/-- Whenever the true sum passes 255 the flag of `ADD Vx, Vy` is 1, and whenever the flag is 0 the destination, if it is
not `V[15]`, holds the true sum (R167, corner case (a)). That this holds of the flag when the destination is `V[15]` is
the spec's own choice (D8, log 8). -/
def Obligations.TrueCarryImpliesTheAddFlag : Prop :=
  ∀ (x y : RegIdx) (s t : State), exec (.addReg x y) s = .next t →
    (255 < (s.reg x).toNat + (s.reg y).toNat → t.reg VF = 0x01) ∧
    (t.reg VF = 0x00 → x ≠ VF → (t.reg x).toNat = (s.reg x).toNat + (s.reg y).toNat)

/-- `SUB` and `SUBN` (R168, R169): the difference modulo 256, written to `V[x]` and to `V[y]` respectively, unless
the flag overwrites it, and the open borrow function of the pre-state operands in `V[15]`, whatever that function is.
The open functions, the order of the two writes and the destination of `SUBN` are the spec's own choices (D8, D9,
D10, log 4, log 8, log 9). -/
def Obligations.SubtractsWriteDifferenceAndOpenBorrow : Prop :=
  ∀ (x y : RegIdx) (s : State),
    (decodeWord (0x8#4 ++ nib x ++ nib y ++ 0x5#4) = .instr (.sub x y) ∧ ∃ t, exec (.sub x y) s = .next t ∧
      (x ≠ VF → (t.reg x).toNat = ((s.reg x).toNat + 256 - (s.reg y).toNat) % 256) ∧
      t.reg VF = bitByte (Config.borrowFlag5 (s.reg x) (s.reg y)) ∧
      PcPlus s t 2 ∧ ChangesOnly s t fun e => e = .v x ∨ e = .v VF ∨ e = .pc) ∧
    (decodeWord (0x8#4 ++ nib x ++ nib y ++ 0x7#4) = .instr (.subn x y) ∧ ∃ t, exec (.subn x y) s = .next t ∧
      (y ≠ VF → (t.reg y).toNat = ((s.reg y).toNat + 256 - (s.reg x).toNat) % 256) ∧
      t.reg VF = bitByte (Config.borrowFlag7 (s.reg x) (s.reg y)) ∧
      PcPlus s t 2 ∧ ChangesOnly s t fun e => e = .v y ∨ e = .v VF ∨ e = .pc)

/-- `SHR` and `SHL` (R170, R171): in place, whatever the `y` field; the bit shifted out in `V[15]`. That `y` is
ignored and the order of the two writes are the spec's own choices (D8, D11, log 8, log 9). -/
def Obligations.ShiftsWriteResultAndShiftedOutBit : Prop :=
  ∀ (x y : RegIdx) (s : State),
    (decodeWord (0x8#4 ++ nib x ++ nib y ++ 0x6#4) = .instr (.shr x y) ∧ ∃ t, exec (.shr x y) s = .next t ∧
      (x ≠ VF → (t.reg x).toNat = (s.reg x).toNat / 2) ∧ (t.reg VF).toNat = (s.reg x).toNat % 2 ∧
      PcPlus s t 2 ∧ ChangesOnly s t fun e => e = .v x ∨ e = .v VF ∨ e = .pc) ∧
    (decodeWord (0x8#4 ++ nib x ++ nib y ++ 0xE#4) = .instr (.shl x y) ∧ ∃ t, exec (.shl x y) s = .next t ∧
      (x ≠ VF → (t.reg x).toNat = (s.reg x).toNat * 2 % 256) ∧ (t.reg VF).toNat = (s.reg x).toNat / 128 ∧
      PcPlus s t 2 ∧ ChangesOnly s t fun e => e = .v x ∨ e = .v VF ∨ e = .pc)

/-! ## Index register and random (44_index_random.md) -/

/-- `LD I, nnn`, `ADD I, Vx`, `LD F, Vx` (R180, R181, R182): `I` and `pc`, no flag. The wrap at 65536 and the
unmasked digit are the spec's own choices (D24, D32, log 18). -/
def Obligations.IndexInstructionsWriteI : Prop :=
  ∀ (nnn : Addr) (x : RegIdx) (s : State),
    (decodeWord (0xA#4 ++ nnn) = .instr (.ldI nnn) ∧ ∃ t, exec (.ldI nnn) s = .next t ∧
      t.i.toNat = nnn.toNat ∧ PcPlus s t 2 ∧ ChangesOnly s t fun e => e = .i ∨ e = .pc) ∧
    (decodeWord (0xF#4 ++ nib x ++ 0x1E#8) = .instr (.addI x) ∧ ∃ t, exec (.addI x) s = .next t ∧
      t.i.toNat = (s.i.toNat + (s.reg x).toNat) % 65536 ∧ PcPlus s t 2 ∧
      ChangesOnly s t fun e => e = .i ∨ e = .pc) ∧
    (decodeWord (0xF#4 ++ nib x ++ 0x29#8) = .instr (.ldF x) ∧ ∃ t, exec (.ldF x) s = .next t ∧
      t.i.toNat = (s.reg x).toNat * 5 ∧ PcPlus s t 2 ∧ ChangesOnly s t fun e => e = .i ∨ e = .pc)

/-- `RND Vx, nn` (R183): the draw masked, whatever the draw; a bit that is 0 in `nn` is 0 in `V[x]`. The counter
`draws` is the model's own (log 2). That the byte is a draw is the spec's own choice (D16). -/
def Obligations.RndMasksAFreeByte : Prop :=
  ∀ (x : RegIdx) (nn : Byte) (s : State),
    decodeWord (0xC#4 ++ nib x ++ nn) = .instr (.rnd x nn) ∧
    ∃ t, exec (.rnd x nn) s = .next t ∧
      (∀ j, j < 8 → (t.reg x).getLsbD j = ((Config.randomByte s.draws).getLsbD j && nn.getLsbD j)) ∧
      (t.reg x).toNat ≤ nn.toNat ∧ t.draws = s.draws + 1 ∧
      PcPlus s t 2 ∧ ChangesOnly s t fun e => e = .v x ∨ e = .pc ∨ e = .draws

/-! ## Display (45_display.md) -/

/-- `CLS` (R190). -/
def Obligations.ClsClearsEveryCell : Prop :=
  ∀ s : State, decodeWord 0x00E0 = .instr .cls ∧
    ∃ t, exec .cls s = .next t ∧ (∀ k, k < 2048 → Display.cell t.display k = false) ∧ t.drawFlag = true ∧
      PcPlus s t 2 ∧ ChangesOnly s t fun e => (∃ k, e = .cell k) ∨ e = .drawFlag ∨ e = .pc

/-- `DRW Vx, Vy, n` (R191, R192): with the sprite readable and on the display, every cell a 1 bit lands on is flipped
and no other, `V[15]` tells whether such a cell was on, `draw_flag` is set; otherwise the fault, memory first. The
orientation, the bit order and the faults are the spec's own choices (D2, D15, D31, log 11, log 12). -/
def Obligations.DrwFlipsTheSpriteCellsOrFaults : Prop :=
  ∀ (x y : RegIdx) (n : Fin 16) (s : State),
    decodeWord (0xD#4 ++ nib x ++ nib y ++ nib n) = .instr (.drw x y n) ∧
    (SpriteReadable s n → SpriteOnDisplay s x y n →
      ∃ t, exec (.drw x y n) s = .next t ∧
        (∀ k, SpriteBitOn s x y n k → Display.cell t.display k = !Display.cell s.display k) ∧
        ((∃ k, SpriteBitOn s x y n k ∧ Display.cell s.display k = true) → t.reg VF = 0x01) ∧
        ((∀ k, SpriteBitOn s x y n k → Display.cell s.display k = false) → t.reg VF = 0x00) ∧
        t.drawFlag = true ∧ PcPlus s t 2 ∧
        ChangesOnly s t fun e => (∃ k, SpriteBitOn s x y n k ∧ e = .cell k) ∨ e = .v VF ∨ e = .drawFlag ∨ e = .pc) ∧
    (¬ SpriteReadable s n → ∃ t, exec (.drw x y n) s = .next t ∧ FaultsWith s t 1 (max s.i.toNat 4096)) ∧
    (SpriteReadable s n → ¬ SpriteOnDisplay s x y n →
      ∃ t, exec (.drw x y n) s = .next t ∧ FaultsWith s t 4 ((s.reg y).toNat * 256 + (s.reg x).toNat))

/-- Drawing the same sprite twice at the same place restores the display; when the first draw met no lit cell, the
second reports a collision exactly if the sprite has a 1 bit. Remark (g) of R191 has no such premise: reading it so is
the model's choice (log 12). With `x = 15` or `y = 15` the first draw's flag moves the second draw elsewhere, so those
forms are not the same place; `DrwFlipsTheSpriteCellsOrFaults` holds for them. -/
def Obligations.DrawingTwiceRestoresTheDisplay : Prop :=
  ∀ (x y : RegIdx) (n : Fin 16) (s t : State), x ≠ VF → y ≠ VF → SpriteReadable s n → SpriteOnDisplay s x y n →
    exec (.drw x y n) s = .next t →
    ∃ u, exec (.drw x y n) t = .next u ∧
      (∀ k, Display.cell u.display k = Display.cell s.display k) ∧
      (t.reg VF = 0x00 → ((∃ k, SpriteBitOn s x y n k) → u.reg VF = 0x01) ∧
        ((∀ k, ¬ SpriteBitOn s x y n k) → u.reg VF = 0x00))

/-! ## Timers and keys (46_timer_key.md) -/

/-- `LD Vx, DT`, `LD DT, Vx`, `LD ST, Vx`, the operation phase (R200, R201, R202). -/
def Obligations.TimerInstructionsMoveOneByte : Prop :=
  ∀ (x : RegIdx) (s : State),
    (decodeWord (0xF#4 ++ nib x ++ 0x07#8) = .instr (.ldFromDt x) ∧ ∃ t, exec (.ldFromDt x) s = .next t ∧
      t.reg x = s.delay ∧ PcPlus s t 2 ∧ ChangesOnly s t fun e => e = .v x ∨ e = .pc) ∧
    (decodeWord (0xF#4 ++ nib x ++ 0x15#8) = .instr (.ldDt x) ∧ ∃ t, exec (.ldDt x) s = .next t ∧
      t.delay = s.reg x ∧ PcPlus s t 2 ∧ ChangesOnly s t fun e => e = .delay ∨ e = .pc) ∧
    (decodeWord (0xF#4 ++ nib x ++ 0x18#8) = .instr (.ldSt x) ∧ ∃ t, exec (.ldSt x) s = .next t ∧
      t.sound = s.reg x ∧ PcPlus s t 2 ∧ ChangesOnly s t fun e => e = .sound ∨ e = .pc)

/-- `LD Vx, K` (R203): the lowest pressed key, or no change at all. The number Fx0A is the spec's own choice (D13, log
10). -/
def Obligations.KeyWaitStoresTheLowestPressedKey : Prop :=
  ∀ (x : RegIdx) (s : State),
    decodeWord (0xF#4 ++ nib x ++ 0x0A#8) = .instr (.ldKey x) ∧
    (∀ k : Fin 16, s.keys[k] = true → (∀ j : Fin 16, j < k → s.keys[j] = false) →
      ∃ t, exec (.ldKey x) s = .next t ∧ (t.reg x).toNat = k.val ∧ PcPlus s t 2 ∧
        ChangesOnly s t fun e => e = .v x ∨ e = .pc) ∧
    ((∀ k : Fin 16, s.keys[k] = false) → exec (.ldKey x) s = .next s)

/-- A step that waits for a key moves the timers and nothing else (R203, R125; 90_conflicts.md C2). That the timers
run is the spec's own choice (D18, log 13). -/
def Obligations.WaitingStepOnlyMovesTheTimers : Prop :=
  ∀ (x : RegIdx) (s : State), Runs s (.ldKey x) → (∀ k : Fin 16, s.keys[k] = false) →
    ∃ t, step s = .next t ∧ t.delay.toNat = s.delay.toNat - 1 ∧ t.sound.toNat = s.sound.toNat - 1 ∧
      ChangesOnly s t fun e => e = .delay ∨ e = .sound

/-! ## Memory instructions (47_bcd_regmem.md) -/

/-- `LD B, Vx` (R210): three digits, or the fault with nothing written. The fault is the spec's own choice (D2, D30,
log 11). -/
def Obligations.BcdStoresThreeDigitsOrFaults : Prop :=
  ∀ (x : RegIdx) (s : State),
    decodeWord (0xF#4 ++ nib x ++ 0x33#8) = .instr (.ldBcd x) ∧
    (s.i.toNat + 2 ≤ 4095 → ∃ t, exec (.ldBcd x) s = .next t ∧
      (t.mem.get s.i.toNat).toNat = (s.reg x).toNat / 100 ∧
      (t.mem.get (s.i.toNat + 1)).toNat = (s.reg x).toNat / 10 % 10 ∧
      (t.mem.get (s.i.toNat + 2)).toNat = (s.reg x).toNat % 10 ∧
      PcPlus s t 2 ∧ ChangesOnly s t fun e => (∃ k, k < 3 ∧ e = .mem (s.i.toNat + k)) ∨ e = .pc) ∧
    (4095 < s.i.toNat + 2 → ∃ t, exec (.ldBcd x) s = .next t ∧ FaultsWith s t 1 (max s.i.toNat 4096))

/-- `LD [I], Vx` (R211): `V[0]` to `V[x]` stored from `I` on, `I` unchanged, or the fault with nothing written. The
fault is the spec's own choice (D2, D30, log 11). -/
def Obligations.DumpStoresRegistersUpToXOrFaults : Prop :=
  ∀ (x : RegIdx) (s : State),
    decodeWord (0xF#4 ++ nib x ++ 0x55#8) = .instr (.storeRegs x) ∧
    (s.i.toNat + x.val ≤ 4095 → ∃ t, exec (.storeRegs x) s = .next t ∧
      (∀ r : RegIdx, r ≤ x → t.mem.get (s.i.toNat + r.val) = s.reg r) ∧
      PcPlus s t 2 ∧ ChangesOnly s t fun e => (∃ k, k ≤ x.val ∧ e = .mem (s.i.toNat + k)) ∨ e = .pc) ∧
    (4095 < s.i.toNat + x.val → ∃ t, exec (.storeRegs x) s = .next t ∧ FaultsWith s t 1 (max s.i.toNat 4096))

/-- `LD Vx, [I]` (R212): `V[0]` to `V[x]` loaded from `I` on, `I` and memory unchanged, or the fault with nothing
loaded. The fault is the spec's own choice (D2, D30, log 11). -/
def Obligations.LoadFillsRegistersUpToXOrFaults : Prop :=
  ∀ (x : RegIdx) (s : State),
    decodeWord (0xF#4 ++ nib x ++ 0x65#8) = .instr (.loadRegs x) ∧
    (s.i.toNat + x.val ≤ 4095 → ∃ t, exec (.loadRegs x) s = .next t ∧
      (∀ r : RegIdx, r ≤ x → t.reg r = s.mem.get (s.i.toNat + r.val)) ∧
      PcPlus s t 2 ∧ ChangesOnly s t fun e => (∃ r : RegIdx, r ≤ x ∧ e = .v r) ∨ e = .pc) ∧
    (4095 < s.i.toNat + x.val → ∃ t, exec (.loadRegs x) s = .next t ∧ FaultsWith s t 1 (max s.i.toNat 4096))

/-- Dump then, from the same `I` and memory, load: the registers come back and `I` is unchanged by either (R211, R212; the
source's round-trip property). -/
def Obligations.LoadAfterDumpRestoresTheRegisters : Prop :=
  ∀ (x : RegIdx) (s t u : State), s.i.toNat + x.val ≤ 4095 → exec (.storeRegs x) s = .next t →
    u.mem = t.mem → u.i = t.i →
    ∃ w, exec (.loadRegs x) u = .next w ∧ (∀ r : RegIdx, r ≤ x → w.reg r = s.reg r) ∧
      (∀ r : RegIdx, x < r → w.reg r = u.reg r) ∧ w.i = s.i

/-- A store is seen by a later fetch (R75): after `LD B, Vx` or `LD [I], Vx`, wherever a fetch of that memory begins,
each of its two bytes is the stored byte where its address was stored to and the old byte where not. -/
def Obligations.StoredBytesAreFetchedAsCode : Prop :=
  ∀ (x : RegIdx) (s t u : State) (i : Instr),
    (i = .ldBcd x ∧ s.i.toNat + 2 ≤ 4095) ∨ (i = .storeRegs x ∧ s.i.toNat + x.val ≤ 4095) →
    exec i s = .next t → u.mem = t.mem →
    u.fetchWord = (storedByte s i u.pc.toNat).getD (s.mem.get u.pc.toNat) ++
      (storedByte s i (u.pc.toNat + 1)).getD (s.mem.get (u.pc.toNat + 1))

/-! ## The lawful host (60_exceptions.md R244) -/

/-- The duties of the host that the core does not check (R244, U17): a lawful run begins with `reset`, and between a
`loadProgram` that fails and a later `step` there is a `reset` or a `loadProgram` that succeeds. Its liberties: any
sequence after a `reset` in which no load fails is lawful, in any order and of any length. That a `reset` or a later
load gives the step back is the model's choice (log 21). -/
def Obligations.LawfulHostKeepsItsDuties : Prop :=
  (∀ q qs, lawful (q :: qs) = true → q = .reset) ∧
  (∀ (before between later : List Transaction) (image : List Byte), 3584 < image.length →
    lawful (before ++ .loadProgram image :: (between ++ .step :: later)) = true →
    .reset ∈ between ∨ ∃ ok, .loadProgram ok ∈ between ∧ ok.length ≤ 3584) ∧
  ∀ qs : List Transaction, (∀ image, .loadProgram image ∈ qs → image.length ≤ 3584) → lawful (.reset :: qs) = true

/-- Every lawful host run answers, from whatever state the machine was in before its first `reset` (R40, R242, R244),
and leaves a state with the invariant. What a lawful run is beyond R244 is the model's choice (log 21). -/
def Obligations.LawfulRunsReachOnlyTheInvariant : Prop :=
  ∀ (qs : List Transaction) (s : State), qs ≠ [] → lawful qs = true →
    ∃ t answers, runHost qs s = .next (t, answers) ∧ answers.length = qs.length ∧ t.Inv
end

