-- ==== Sys2Proof/Laws/Display.lean ====
section
/-! SUPPORT. The display: what flipping a cell does, and what a whole sprite draw does, cell by cell. -/

namespace Sys2Proof.Machine

namespace Display

theorem cell_of_ge (d : Display) {k : Nat} (h : 2048 ≤ k) : cell d k = false := by
  simp [cell, show ¬ k < 2048 by omega]

/-- Flipping cell `k` changes that cell and no other (R191). -/
theorem cell_flip (d : Display) (k j : Nat) :
    cell (flip d k) j = if j = k ∧ k < 2048 then !cell d j else cell d j := by
  by_cases hk : k < 2048
  · by_cases hj : j < 2048
    · simp only [flip, hk, dite_true, cell, hj, and_true]
      rw [Vector.getElem_set]
      by_cases hr : k / 64 = j / 64
      · have hc : j % 64 < 64 := Nat.mod_lt _ (by omega)
        have hjk : j = k ↔ j % 64 = k % 64 := by omega
        simp only [hr, if_true, BitVec.getLsbD_xor, BitVec.getLsbD_shiftLeft, BitVec.getLsbD_one, hc, decide_true,
          Bool.true_and]
        by_cases he : j % 64 = k % 64
        · simp [hjk, he]
        · rw [if_neg (by rw [hjk]; exact he)]
          by_cases hl : j % 64 < k % 64
          · simp [hl]
          · simp [hl, show ¬ j % 64 - k % 64 = 0 by omega]
      · have : j ≠ k := fun h => hr (by rw [h])
        simp [hr, this]
    · have : ¬ j = k := by omega
      simp [cell, hj, this]
  · simp [flip, hk]

end Display

/-- Whether some column of `cs` with a 1 bit in `b` lands on cell `j`, column 0 lying on cell `k`. -/
def rowHits (b : Byte) (k : Nat) (cs : List Nat) (j : Nat) : Bool := cs.any fun c => b.getLsbD (7 - c) && j == k + c

theorem drawCell_fst (g : Drawing) (k j : Nat) :
    Display.cell (drawCell g k).1 j = if j = k ∧ k < 2048 then !Display.cell g.1 j else Display.cell g.1 j :=
  Display.cell_flip g.1 k j

/-- A sprite row, cell by cell: a cell it hits is flipped, any other is left, and the collision bit records whether a
hit cell was on. -/
theorem drawColumns_spec (b : Byte) (k : Nat) (cs : List Nat) (hn : cs.Nodup) (hk : ∀ c ∈ cs, k + c < 2048)
    (g : Drawing) :
    (∀ j, Display.cell (drawColumns b k cs g).1 j = (Display.cell g.1 j ^^ rowHits b k cs j)) ∧
    ((drawColumns b k cs g).2 = true ↔
      g.2 = true ∨ ∃ j, rowHits b k cs j = true ∧ Display.cell g.1 j = true) := by
  induction cs generalizing g with
  | nil => simp [drawColumns, rowHits]
  | cons c rest ih =>
    have hc : k + c < 2048 := hk c (by simp)
    have hnot : ∀ c' ∈ rest, c' ≠ c := fun c' h he => (List.nodup_cons.mp hn).1 (he ▸ h)
    have ih := ih (List.nodup_cons.mp hn).2 fun c' h => hk c' (by simp [h])
    have hsplit : ∀ j, rowHits b k (c :: rest) j = (b.getLsbD (7 - c) && j == k + c || rowHits b k rest j) := by
      intro j; simp [rowHits]
    have hdisj : rowHits b k rest (k + c) = false := by
      simp only [rowHits, List.any_eq_false, Bool.and_eq_true, beq_iff_eq, not_and]
      intro c' h' _ he
      exact hnot c' h' (by omega)
    by_cases hbit : b.getLsbD (7 - c) = true
    · obtain ⟨ih1, ih2⟩ := ih (drawCell g (k + c))
      simp only [drawColumns, hbit, if_true]
      refine ⟨fun j => ?_, ?_⟩
      · rw [ih1, drawCell_fst, hsplit, hbit]
        by_cases hj : j = k + c
        · subst hj; simp [hc, hdisj]
        · simp [hj]
      · rw [ih2]
        simp only [hsplit, hbit, drawCell, Display.cell_flip, Bool.or_eq_true]
        constructor
        · rintro ((h | h) | ⟨j, hr, hj⟩)
          · exact .inl h
          · exact .inr ⟨k + c, by simp, h⟩
          · refine .inr ⟨j, by simp [hr], ?_⟩
            have : j ≠ k + c := by rintro rfl; simp [hdisj] at hr
            simpa [this] using hj
        · rintro (h | ⟨j, hr, hj⟩)
          · exact .inl (.inl h)
          · by_cases he : j = k + c
            · subst he; exact .inl (.inr hj)
            · refine .inr ⟨j, by simpa [he] using hr, by simpa [he] using hj⟩
    · obtain ⟨ih1, ih2⟩ := ih g
      simp only [drawColumns, hbit, Bool.false_eq_true, if_false]
      refine ⟨fun j => ?_, ?_⟩
      · rw [ih1, hsplit]; simp [hbit]
      · rw [ih2]; simp only [hsplit, hbit, Bool.false_and, Bool.false_or]

/-- Whether the sprite `rows` at column `cx`, row `cy` has a 1 bit on cell `j` (R192): bit `7 - c` of byte `r` lands on
column `cx + c`, row `cy + r`. -/
def spriteHits (cx cy : Nat) (rows : List Byte) (j : Nat) : Bool :=
  decide (cx ≤ j % 64 ∧ j % 64 ≤ cx + 7 ∧ cy ≤ j / 64 ∧ j / 64 < cy + rows.length) &&
    (rows.getD (j / 64 - cy) 0).getLsbD (7 - (j % 64 - cx))

theorem spriteHits_nil (cx cy j : Nat) : spriteHits cx cy [] j = false := by
  have : ¬ (cy ≤ j / 64 ∧ j / 64 < cy) := by omega
  simp [spriteHits, this]

theorem rowHits_range (b : Byte) (cx cy : Nat) (h : cx ≤ 56) (j : Nat) :
    rowHits b (cy * 64 + cx) (List.range 8) j =
      (decide (cx ≤ j % 64 ∧ j % 64 ≤ cx + 7 ∧ j / 64 = cy) && b.getLsbD (7 - (j % 64 - cx))) := by
  rw [Bool.eq_iff_iff]
  simp only [rowHits, List.any_eq_true, List.mem_range, Bool.and_eq_true, beq_iff_eq, decide_eq_true_eq]
  constructor
  · rintro ⟨c, hc, hb, rfl⟩
    have h1 : (cy * 64 + cx + c) % 64 = cx + c := by omega
    have h2 : (cy * 64 + cx + c) / 64 = cy := by omega
    rw [h1, h2, show cx + c - cx = c by omega]
    exact ⟨⟨by omega, by omega, rfl⟩, hb⟩
  · rintro ⟨⟨h1, h2, h3⟩, hb⟩
    exact ⟨j % 64 - cx, by omega, hb, by omega⟩

theorem spriteHits_cons (b : Byte) (cx cy : Nat) (rest : List Byte) (h : cx ≤ 56) (j : Nat) :
    spriteHits cx cy (b :: rest) j =
      (rowHits b (cy * 64 + cx) (List.range 8) j || spriteHits cx (cy + 1) rest j) := by
  rw [rowHits_range b cx cy h, Bool.eq_iff_iff]
  simp only [spriteHits, Bool.and_eq_true, Bool.or_eq_true, decide_eq_true_eq, List.length_cons]
  constructor
  · rintro ⟨⟨h1, h2, h3, h4⟩, hb⟩
    by_cases he : j / 64 = cy
    · exact .inl ⟨⟨h1, h2, he⟩, by simpa [he] using hb⟩
    · obtain ⟨d, hd⟩ : ∃ d, j / 64 - cy = d + 1 := ⟨j / 64 - cy - 1, by omega⟩
      refine .inr ⟨⟨h1, h2, by omega, by omega⟩, ?_⟩
      rw [show j / 64 - (cy + 1) = d by omega]
      simpa [hd] using hb
  · rintro (⟨⟨h1, h2, he⟩, hb⟩ | ⟨⟨h1, h2, h3, h4⟩, hb⟩)
    · exact ⟨⟨h1, h2, by omega, by omega⟩, by simpa [he] using hb⟩
    · obtain ⟨d, hd⟩ : ∃ d, j / 64 - cy = d + 1 := ⟨j / 64 - cy - 1, by omega⟩
      refine ⟨⟨h1, h2, by omega, by omega⟩, ?_⟩
      rw [show j / 64 - (cy + 1) = d by omega] at hb
      simpa [hd] using hb

theorem drawRows_spec (cx : Nat) (rows : List Byte) (cy : Nat) (hx : cx ≤ 56) (hy : cy + rows.length ≤ 32)
    (g : Drawing) :
    (∀ j, Display.cell (drawRows cx cy rows g).1 j = (Display.cell g.1 j ^^ spriteHits cx cy rows j)) ∧
    ((drawRows cx cy rows g).2 = true ↔
      g.2 = true ∨ ∃ j, spriteHits cx cy rows j = true ∧ Display.cell g.1 j = true) := by
  induction rows generalizing cy g with
  | nil => simp [drawRows, spriteHits_nil]
  | cons b rest ih =>
    simp only [List.length_cons] at hy
    obtain ⟨c1, c2⟩ := drawColumns_spec b (cy * 64 + cx) (List.range 8) List.nodup_range
      (fun c hc => by simp at hc; omega) g
    obtain ⟨r1, r2⟩ := ih (cy + 1) (by omega) (drawColumns b (cy * 64 + cx) (List.range 8) g)
    have hdisj : ∀ j, spriteHits cx (cy + 1) rest j = true →
        rowHits b (cy * 64 + cx) (List.range 8) j = false := by
      intro j hj
      rw [rowHits_range b cx cy hx]
      simp only [spriteHits, Bool.and_eq_true, decide_eq_true_eq] at hj
      simp only [Bool.and_eq_false_iff, decide_eq_false_iff_not]
      exact .inl (by omega)
    refine ⟨fun j => ?_, ?_⟩
    · rw [drawRows, r1, c1, spriteHits_cons b cx cy rest hx]
      cases hs : spriteHits cx (cy + 1) rest j
      · simp
      · simp [hdisj j hs]
    · rw [drawRows, r2, c2]
      simp only [c1, spriteHits_cons b cx cy rest hx, Bool.or_eq_true]
      constructor
      · rintro ((h | ⟨j, hr, hj⟩) | ⟨j, hs, hj⟩)
        · exact .inl h
        · exact .inr ⟨j, .inl hr, hj⟩
        · exact .inr ⟨j, .inr hs, by simpa [hdisj j hs] using hj⟩
      · rintro (h | ⟨j, hr | hs, hj⟩)
        · exact .inl (.inl h)
        · exact .inl (.inr ⟨j, hr, hj⟩)
        · exact .inr ⟨j, hs, by simpa [hdisj j hs] using hj⟩

/-- A whole draw inside the display: each cell a 1 bit lands on is flipped, every other is left, and the collision flag
is set exactly when a flipped cell was on (R191). -/
theorem drawSprite_spec (d : Display) (cx cy : Nat) (rows : List Byte) (hx : cx ≤ 56) (hy : cy + rows.length ≤ 32) :
    (∀ j, Display.cell (drawSprite d cx cy rows).1 j = (Display.cell d j ^^ spriteHits cx cy rows j)) ∧
    ((drawSprite d cx cy rows).2 = true ↔ ∃ j, spriteHits cx cy rows j = true ∧ Display.cell d j = true) := by
  simpa [drawSprite] using drawRows_spec cx rows cy hx hy (d, false)

end Sys2Proof.Machine
end

