-- ==== Sys2Proof/Laws/Host.lean ====
section
/-! SUPPORT. Host runs: one step of a run, and lawful runs piece by piece (R242, R244). -/

namespace Sys2Proof.Machine

/-- An image is accepted exactly when it has at most 3584 bytes (R265). -/
theorem imageWellFormed_iff (image : List Byte) : imageWellFormed image = true ↔ image.length ≤ 3584 :=
  decide_eq_true_iff

theorem imageWellFormed_eq_false_iff (image : List Byte) : imageWellFormed image = false ↔ 3584 < image.length := by
  rw [← Bool.not_eq_true, imageWellFormed_iff, Nat.not_le]

@[simp] theorem runHost_nil (s : State) : runHost [] s = .next (s, []) := rfl

/-- A run that begins with `q` answers exactly when `q` does and the rest does from there. -/
theorem runHost_cons_iff (q : Transaction) (qs : List Transaction) (s u : State) (as : List Response) :
    runHost (q :: qs) s = .next (u, as) ↔
      ∃ t a rest, transact q s = .next (t, a) ∧ runHost qs t = .next (u, rest) ∧ as = a :: rest := by
  cases hq : transact q s with
  | fault f => simp [runHost, hq]
  | refused r => simp [runHost, hq]
  | next p =>
    cases h : runHost qs p.1 with
    | fault f => simp [runHost, hq, h]; rintro _ _ ⟨⟩; simp [h]
    | refused r => simp [runHost, hq, h]; rintro _ _ ⟨⟩; simp [h]
    | next r =>
      simp only [runHost, hq, h]
      constructor
      · rintro ⟨⟩
        exact ⟨p.1, p.2, r.2, rfl, h, rfl⟩
      · rintro ⟨t, a, rest, ⟨⟩, h', rfl⟩
        rw [h] at h'
        cases h'
        rfl

/-- The standing after a whole sequence. -/
def HostPhase.afterAll (p : HostPhase) (qs : List Transaction) : HostPhase := qs.foldl HostPhase.after p

@[simp] theorem lawfulFrom_nil (p : HostPhase) : lawfulFrom p [] = true := rfl

@[simp] theorem lawfulFrom_cons (p : HostPhase) (q : Transaction) (qs : List Transaction) :
    lawfulFrom p (q :: qs) = (p.allows q && lawfulFrom (p.after q) qs) := rfl

/-- A sequence is lawful when its parts are, each from the standing the part before leaves. -/
theorem lawfulFrom_append (p : HostPhase) (qs rest : List Transaction) :
    lawfulFrom p (qs ++ rest) = (lawfulFrom p qs && lawfulFrom (p.afterAll qs) rest) := by
  induction qs generalizing p with
  | nil => simp [HostPhase.afterAll]
  | cons q qs ih => simp [ih, HostPhase.afterAll, Bool.and_assoc]

@[simp] theorem allows_free (q : Transaction) : HostPhase.free.allows q = true := by cases q <;> rfl

/-- From the free standing only a load that fails leads away. -/
theorem after_free (q : Transaction) (h : ∀ image, q = .loadProgram image → imageWellFormed image = true) :
    HostPhase.free.after q = .free := by
  cases q with
  | loadProgram image => simp [HostPhase.after, h image rfl]
  | _ => rfl

/-- From a failed load only a `reset` or a load that succeeds leads away. -/
theorem after_loadFailed (q : Transaction) (hr : q ≠ .reset)
    (h : ∀ image, q = .loadProgram image → imageWellFormed image = false) :
    HostPhase.loadFailed.after q = .loadFailed := by
  cases q with
  | reset => exact absurd rfl hr
  | loadProgram image => simp [HostPhase.after, h image rfl]
  | _ => rfl

end Sys2Proof.Machine
end

