-- ==== Sys2Proof/Laws/Memory.lean ====
section
/-! SUPPORT. Memory: a read after a write, and that every operation keeps the canonical form. -/

namespace Sys2Proof.Machine

/-! ## The reset contents, whatever the font is (R27) -/

@[simp] theorem length_fontTable : fontTable.length = 80 := by simp [fontTable]

theorem getElem?_fontTable (a : Nat) (h : a < 80) : fontTable[a]? = some (resetByte a) := by
  simp [resetByte, h]

theorem resetByte_of_ge (a : Nat) (h : 80 ≤ a) : resetByte a = 0 := by
  simp [resetByte, show ¬ a < 80 by omega]

end Sys2Proof.Machine

namespace Sys2Proof.Machine.Memory

/-! ## Read after write -/

theorem lookup_erase (l : List Host.Cell) (a k : Nat) :
    lookup (erase a l) k = if k = a then resetByte k else lookup l k := by
  induction l with
  | nil => simp [erase, lookup]
  | cons c rest ih =>
    obtain ⟨b, u⟩ := c
    by_cases hb : b = a
    · by_cases hk : k = a
      · subst hk
        simpa [erase, hb] using ih
      · have : ¬ a = k := fun h => hk h.symm
        simp [erase, hb, ih, hk, lookup, this]
    · by_cases hk : k = a
      · subst hk
        simpa [erase, hb, lookup] using ih
      · simp [erase, hb, ih, hk, lookup]

theorem lookup_insert (l : List Host.Cell) (a k : Nat) (v : Byte) (h : ∀ c ∈ l, c.1 ≠ a) :
    lookup (insert a v l) k = if k = a then v else lookup l k := by
  induction l with
  | nil => simp [insert, lookup, eq_comm]
  | cons c rest ih =>
    obtain ⟨b, u⟩ := c
    have hb : b ≠ a := h (b, u) (by simp)
    have ih := ih fun c hc => h c (by simp [hc])
    by_cases hlt : a < b
    · simp [insert, hlt, lookup, eq_comm]
    · by_cases hk : k = a
      · subst hk
        simpa [insert, hlt, lookup, hb] using ih
      · simp [insert, hlt, lookup, ih, hk]

theorem not_mem_erase (l : List Host.Cell) (a : Nat) : ∀ c ∈ erase a l, c.1 ≠ a := by
  induction l with
  | nil => simp [erase]
  | cons c rest ih =>
    obtain ⟨b, u⟩ := c
    by_cases hb : b = a
    · simpa [erase, hb] using ih
    · simpa [erase, hb] using ih

/-- A read after a write (R66, R72). -/
theorem get_set (m : Memory) (a k : Nat) (v : Byte) : (m.set a v).get k = if k = a then v else m.get k := by
  unfold set
  split
  · rename_i hv
    simp only [get, lookup_erase]
    split
    · simp_all
    · rfl
  · simp only [get, lookup_insert _ _ _ _ (not_mem_erase m.cells a), lookup_erase]
    split <;> rfl

/-- A read after a run of ascending writes. -/
theorem get_setBytes (bs : List Byte) (m : Memory) (a k : Nat) :
    (m.setBytes a bs).get k = if a ≤ k then bs.getD (k - a) (m.get k) else m.get k := by
  induction bs generalizing m a with
  | nil => simp [setBytes]
  | cons v rest ih =>
    rw [setBytes, ih, get_set]
    by_cases hk : k = a
    · simp [hk]
    · by_cases hle : a ≤ k
      · have h1 : a + 1 ≤ k := by omega
        obtain ⟨d, rfl⟩ : ∃ d, k = a + 1 + d := ⟨k - (a + 1), by omega⟩
        have h2 : a + 1 + d - a = d + 1 := by omega
        have h3 : a + 1 + d - (a + 1) = d := by omega
        simp [hle, h2, h3, show ¬ a + 1 + d = a by omega]
      · simp [hk, hle, show ¬ a + 1 ≤ k by omega]

theorem get_setBytes_outside (bs : List Byte) (m : Memory) (a k : Nat) (h : k < a ∨ a + bs.length ≤ k) :
    (m.setBytes a bs).get k = m.get k := by
  rw [get_setBytes]
  split
  · have : bs.length ≤ k - a := by omega
    rw [List.getD_eq_getElem?_getD, List.getElem?_eq_none this]; rfl
  · rfl

@[simp] theorem length_bytes (m : Memory) (a n : Nat) : (m.bytes a n).length = n := by
  induction n generalizing a with
  | zero => rfl
  | succ n ih => simp [bytes, ih]

theorem getD_bytes (m : Memory) (a n j : Nat) (d : Byte) (h : j < n) : (m.bytes a n).getD j d = m.get (a + j) := by
  induction n generalizing a j with
  | zero => omega
  | succ n ih =>
    cases j with
    | zero => simp [bytes]
    | succ j =>
      have := ih (a + 1) j (by omega)
      rw [show a + 1 + j = a + (j + 1) by omega] at this
      simpa [bytes] using this

/-! ## The canonical form -/

theorem canonicalFrom_mono {lo lo' : Nat} {l : List Host.Cell} (h : lo' ≤ lo) (hc : canonicalFrom lo l = true) :
    canonicalFrom lo' l = true := by
  cases l with
  | nil => rfl
  | cons c rest =>
    obtain ⟨b, u⟩ := c
    simp only [canonicalFrom, Bool.and_eq_true, decide_eq_true_eq] at hc ⊢
    exact ⟨⟨⟨by omega, hc.1.1.2⟩, hc.1.2⟩, hc.2⟩

theorem canonicalFrom_erase (a : Nat) {lo : Nat} {l : List Host.Cell} (hc : canonicalFrom lo l = true) :
    canonicalFrom lo (erase a l) = true := by
  induction l generalizing lo with
  | nil => rfl
  | cons c rest ih =>
    obtain ⟨b, u⟩ := c
    simp only [canonicalFrom, Bool.and_eq_true, decide_eq_true_eq] at hc
    by_cases hb : b = a
    · simpa [erase, hb] using canonicalFrom_mono (by omega : lo ≤ a + 1) (hb ▸ ih hc.2)
    · simpa [erase, hb, canonicalFrom] using ⟨⟨hc.1.1, by simpa using hc.1.2⟩, ih hc.2⟩

theorem canonicalFrom_insert {a : Nat} {v : Byte} (ha : a < memSize) (hv : v ≠ resetByte a) {lo : Nat}
    {l : List Host.Cell} (hlo : lo ≤ a) (hc : canonicalFrom lo l = true) (hl : ∀ c ∈ l, c.1 ≠ a) :
    canonicalFrom lo (insert a v l) = true := by
  induction l generalizing lo with
  | nil => simp [insert, canonicalFrom, hlo, ha, hv]
  | cons c rest ih =>
    obtain ⟨b, u⟩ := c
    have hb : b ≠ a := hl (b, u) (by simp)
    simp only [canonicalFrom, Bool.and_eq_true, decide_eq_true_eq] at hc
    by_cases hlt : a < b
    · simp only [insert, hlt, if_true, canonicalFrom, Bool.and_eq_true, decide_eq_true_eq]
      exact ⟨⟨⟨hlo, ha⟩, by simpa using hv⟩, ⟨⟨by omega, hc.1.1.2⟩, hc.1.2⟩, hc.2⟩
    · simp only [insert, hlt, if_false, canonicalFrom, Bool.and_eq_true, decide_eq_true_eq]
      exact ⟨hc.1, ih (by omega) hc.2 fun c hm => hl c (by simp [hm])⟩

theorem wf_empty : empty.wf = true := rfl

/-- A write inside memory keeps the canonical form. -/
theorem wf_set {m : Memory} (a : Nat) (v : Byte) (ha : a < memSize) (h : m.wf = true) : (m.set a v).wf = true := by
  unfold set
  split
  · exact canonicalFrom_erase a h
  · rename_i hv
    exact canonicalFrom_insert ha hv (Nat.zero_le a) (canonicalFrom_erase a h) (not_mem_erase m.cells a)

/-- A run of writes inside memory keeps the canonical form. -/
theorem wf_setBytes (bs : List Byte) {m : Memory} (a : Nat) (ha : a + bs.length ≤ memSize) (h : m.wf = true) :
    (m.setBytes a bs).wf = true := by
  induction bs generalizing m a with
  | nil => exact h
  | cons v rest ih =>
    simp only [List.length_cons] at ha
    exact ih (a + 1) (by omega) (wf_set a v (by omega) h)

end Sys2Proof.Machine.Memory
end

