-- ==== Sys2Proof/Laws/State.lean ====
section
/-! SUPPORT. The state's small lemmas: one per field per setter, and what the composed register operations are in terms
of setters. Later proofs cite these and never unfold a record update. -/

namespace Sys2Proof.Machine

@[simp] theorem State.setRegs_v (s : State) (a : Vector Byte 16) : (s.setRegs a).v = a := rfl
@[simp] theorem State.setRegs_i (s : State) (a : Vector Byte 16) : (s.setRegs a).i = s.i := rfl
@[simp] theorem State.setRegs_pc (s : State) (a : Vector Byte 16) : (s.setRegs a).pc = s.pc := rfl
@[simp] theorem State.setRegs_stack (s : State) (a : Vector Byte 16) : (s.setRegs a).stack = s.stack := rfl
@[simp] theorem State.setRegs_sp (s : State) (a : Vector Byte 16) : (s.setRegs a).sp = s.sp := rfl
@[simp] theorem State.setRegs_mem (s : State) (a : Vector Byte 16) : (s.setRegs a).mem = s.mem := rfl
@[simp] theorem State.setRegs_display (s : State) (a : Vector Byte 16) : (s.setRegs a).display = s.display := rfl
@[simp] theorem State.setRegs_drawFlag (s : State) (a : Vector Byte 16) : (s.setRegs a).drawFlag = s.drawFlag := rfl
@[simp] theorem State.setRegs_delay (s : State) (a : Vector Byte 16) : (s.setRegs a).delay = s.delay := rfl
@[simp] theorem State.setRegs_sound (s : State) (a : Vector Byte 16) : (s.setRegs a).sound = s.sound := rfl
@[simp] theorem State.setRegs_keys (s : State) (a : Vector Byte 16) : (s.setRegs a).keys = s.keys := rfl
@[simp] theorem State.setRegs_latch (s : State) (a : Vector Byte 16) : (s.setRegs a).latch = s.latch := rfl
@[simp] theorem State.setRegs_draws (s : State) (a : Vector Byte 16) : (s.setRegs a).draws = s.draws := rfl

@[simp] theorem State.setI_v (s : State) (a : Word) : (s.setI a).v = s.v := rfl
@[simp] theorem State.setI_i (s : State) (a : Word) : (s.setI a).i = a := rfl
@[simp] theorem State.setI_pc (s : State) (a : Word) : (s.setI a).pc = s.pc := rfl
@[simp] theorem State.setI_stack (s : State) (a : Word) : (s.setI a).stack = s.stack := rfl
@[simp] theorem State.setI_sp (s : State) (a : Word) : (s.setI a).sp = s.sp := rfl
@[simp] theorem State.setI_mem (s : State) (a : Word) : (s.setI a).mem = s.mem := rfl
@[simp] theorem State.setI_display (s : State) (a : Word) : (s.setI a).display = s.display := rfl
@[simp] theorem State.setI_drawFlag (s : State) (a : Word) : (s.setI a).drawFlag = s.drawFlag := rfl
@[simp] theorem State.setI_delay (s : State) (a : Word) : (s.setI a).delay = s.delay := rfl
@[simp] theorem State.setI_sound (s : State) (a : Word) : (s.setI a).sound = s.sound := rfl
@[simp] theorem State.setI_keys (s : State) (a : Word) : (s.setI a).keys = s.keys := rfl
@[simp] theorem State.setI_latch (s : State) (a : Word) : (s.setI a).latch = s.latch := rfl
@[simp] theorem State.setI_draws (s : State) (a : Word) : (s.setI a).draws = s.draws := rfl

@[simp] theorem State.setPc_v (s : State) (a : Word) : (s.setPc a).v = s.v := rfl
@[simp] theorem State.setPc_i (s : State) (a : Word) : (s.setPc a).i = s.i := rfl
@[simp] theorem State.setPc_pc (s : State) (a : Word) : (s.setPc a).pc = a := rfl
@[simp] theorem State.setPc_stack (s : State) (a : Word) : (s.setPc a).stack = s.stack := rfl
@[simp] theorem State.setPc_sp (s : State) (a : Word) : (s.setPc a).sp = s.sp := rfl
@[simp] theorem State.setPc_mem (s : State) (a : Word) : (s.setPc a).mem = s.mem := rfl
@[simp] theorem State.setPc_display (s : State) (a : Word) : (s.setPc a).display = s.display := rfl
@[simp] theorem State.setPc_drawFlag (s : State) (a : Word) : (s.setPc a).drawFlag = s.drawFlag := rfl
@[simp] theorem State.setPc_delay (s : State) (a : Word) : (s.setPc a).delay = s.delay := rfl
@[simp] theorem State.setPc_sound (s : State) (a : Word) : (s.setPc a).sound = s.sound := rfl
@[simp] theorem State.setPc_keys (s : State) (a : Word) : (s.setPc a).keys = s.keys := rfl
@[simp] theorem State.setPc_latch (s : State) (a : Word) : (s.setPc a).latch = s.latch := rfl
@[simp] theorem State.setPc_draws (s : State) (a : Word) : (s.setPc a).draws = s.draws := rfl

@[simp] theorem State.setStack_v (s : State) (a : Vector Word 16) : (s.setStack a).v = s.v := rfl
@[simp] theorem State.setStack_i (s : State) (a : Vector Word 16) : (s.setStack a).i = s.i := rfl
@[simp] theorem State.setStack_pc (s : State) (a : Vector Word 16) : (s.setStack a).pc = s.pc := rfl
@[simp] theorem State.setStack_stack (s : State) (a : Vector Word 16) : (s.setStack a).stack = a := rfl
@[simp] theorem State.setStack_sp (s : State) (a : Vector Word 16) : (s.setStack a).sp = s.sp := rfl
@[simp] theorem State.setStack_mem (s : State) (a : Vector Word 16) : (s.setStack a).mem = s.mem := rfl
@[simp] theorem State.setStack_display (s : State) (a : Vector Word 16) : (s.setStack a).display = s.display := rfl
@[simp] theorem State.setStack_drawFlag (s : State) (a : Vector Word 16) : (s.setStack a).drawFlag = s.drawFlag := rfl
@[simp] theorem State.setStack_delay (s : State) (a : Vector Word 16) : (s.setStack a).delay = s.delay := rfl
@[simp] theorem State.setStack_sound (s : State) (a : Vector Word 16) : (s.setStack a).sound = s.sound := rfl
@[simp] theorem State.setStack_keys (s : State) (a : Vector Word 16) : (s.setStack a).keys = s.keys := rfl
@[simp] theorem State.setStack_latch (s : State) (a : Vector Word 16) : (s.setStack a).latch = s.latch := rfl
@[simp] theorem State.setStack_draws (s : State) (a : Vector Word 16) : (s.setStack a).draws = s.draws := rfl

@[simp] theorem State.setSp_v (s : State) (a : Fin 17) : (s.setSp a).v = s.v := rfl
@[simp] theorem State.setSp_i (s : State) (a : Fin 17) : (s.setSp a).i = s.i := rfl
@[simp] theorem State.setSp_pc (s : State) (a : Fin 17) : (s.setSp a).pc = s.pc := rfl
@[simp] theorem State.setSp_stack (s : State) (a : Fin 17) : (s.setSp a).stack = s.stack := rfl
@[simp] theorem State.setSp_sp (s : State) (a : Fin 17) : (s.setSp a).sp = a := rfl
@[simp] theorem State.setSp_mem (s : State) (a : Fin 17) : (s.setSp a).mem = s.mem := rfl
@[simp] theorem State.setSp_display (s : State) (a : Fin 17) : (s.setSp a).display = s.display := rfl
@[simp] theorem State.setSp_drawFlag (s : State) (a : Fin 17) : (s.setSp a).drawFlag = s.drawFlag := rfl
@[simp] theorem State.setSp_delay (s : State) (a : Fin 17) : (s.setSp a).delay = s.delay := rfl
@[simp] theorem State.setSp_sound (s : State) (a : Fin 17) : (s.setSp a).sound = s.sound := rfl
@[simp] theorem State.setSp_keys (s : State) (a : Fin 17) : (s.setSp a).keys = s.keys := rfl
@[simp] theorem State.setSp_latch (s : State) (a : Fin 17) : (s.setSp a).latch = s.latch := rfl
@[simp] theorem State.setSp_draws (s : State) (a : Fin 17) : (s.setSp a).draws = s.draws := rfl

@[simp] theorem State.setMem_v (s : State) (a : Memory) : (s.setMem a).v = s.v := rfl
@[simp] theorem State.setMem_i (s : State) (a : Memory) : (s.setMem a).i = s.i := rfl
@[simp] theorem State.setMem_pc (s : State) (a : Memory) : (s.setMem a).pc = s.pc := rfl
@[simp] theorem State.setMem_stack (s : State) (a : Memory) : (s.setMem a).stack = s.stack := rfl
@[simp] theorem State.setMem_sp (s : State) (a : Memory) : (s.setMem a).sp = s.sp := rfl
@[simp] theorem State.setMem_mem (s : State) (a : Memory) : (s.setMem a).mem = a := rfl
@[simp] theorem State.setMem_display (s : State) (a : Memory) : (s.setMem a).display = s.display := rfl
@[simp] theorem State.setMem_drawFlag (s : State) (a : Memory) : (s.setMem a).drawFlag = s.drawFlag := rfl
@[simp] theorem State.setMem_delay (s : State) (a : Memory) : (s.setMem a).delay = s.delay := rfl
@[simp] theorem State.setMem_sound (s : State) (a : Memory) : (s.setMem a).sound = s.sound := rfl
@[simp] theorem State.setMem_keys (s : State) (a : Memory) : (s.setMem a).keys = s.keys := rfl
@[simp] theorem State.setMem_latch (s : State) (a : Memory) : (s.setMem a).latch = s.latch := rfl
@[simp] theorem State.setMem_draws (s : State) (a : Memory) : (s.setMem a).draws = s.draws := rfl

@[simp] theorem State.setDisplay_v (s : State) (a : Display) : (s.setDisplay a).v = s.v := rfl
@[simp] theorem State.setDisplay_i (s : State) (a : Display) : (s.setDisplay a).i = s.i := rfl
@[simp] theorem State.setDisplay_pc (s : State) (a : Display) : (s.setDisplay a).pc = s.pc := rfl
@[simp] theorem State.setDisplay_stack (s : State) (a : Display) : (s.setDisplay a).stack = s.stack := rfl
@[simp] theorem State.setDisplay_sp (s : State) (a : Display) : (s.setDisplay a).sp = s.sp := rfl
@[simp] theorem State.setDisplay_mem (s : State) (a : Display) : (s.setDisplay a).mem = s.mem := rfl
@[simp] theorem State.setDisplay_display (s : State) (a : Display) : (s.setDisplay a).display = a := rfl
@[simp] theorem State.setDisplay_drawFlag (s : State) (a : Display) : (s.setDisplay a).drawFlag = s.drawFlag := rfl
@[simp] theorem State.setDisplay_delay (s : State) (a : Display) : (s.setDisplay a).delay = s.delay := rfl
@[simp] theorem State.setDisplay_sound (s : State) (a : Display) : (s.setDisplay a).sound = s.sound := rfl
@[simp] theorem State.setDisplay_keys (s : State) (a : Display) : (s.setDisplay a).keys = s.keys := rfl
@[simp] theorem State.setDisplay_latch (s : State) (a : Display) : (s.setDisplay a).latch = s.latch := rfl
@[simp] theorem State.setDisplay_draws (s : State) (a : Display) : (s.setDisplay a).draws = s.draws := rfl

@[simp] theorem State.setDrawFlag_v (s : State) (a : Bool) : (s.setDrawFlag a).v = s.v := rfl
@[simp] theorem State.setDrawFlag_i (s : State) (a : Bool) : (s.setDrawFlag a).i = s.i := rfl
@[simp] theorem State.setDrawFlag_pc (s : State) (a : Bool) : (s.setDrawFlag a).pc = s.pc := rfl
@[simp] theorem State.setDrawFlag_stack (s : State) (a : Bool) : (s.setDrawFlag a).stack = s.stack := rfl
@[simp] theorem State.setDrawFlag_sp (s : State) (a : Bool) : (s.setDrawFlag a).sp = s.sp := rfl
@[simp] theorem State.setDrawFlag_mem (s : State) (a : Bool) : (s.setDrawFlag a).mem = s.mem := rfl
@[simp] theorem State.setDrawFlag_display (s : State) (a : Bool) : (s.setDrawFlag a).display = s.display := rfl
@[simp] theorem State.setDrawFlag_drawFlag (s : State) (a : Bool) : (s.setDrawFlag a).drawFlag = a := rfl
@[simp] theorem State.setDrawFlag_delay (s : State) (a : Bool) : (s.setDrawFlag a).delay = s.delay := rfl
@[simp] theorem State.setDrawFlag_sound (s : State) (a : Bool) : (s.setDrawFlag a).sound = s.sound := rfl
@[simp] theorem State.setDrawFlag_keys (s : State) (a : Bool) : (s.setDrawFlag a).keys = s.keys := rfl
@[simp] theorem State.setDrawFlag_latch (s : State) (a : Bool) : (s.setDrawFlag a).latch = s.latch := rfl
@[simp] theorem State.setDrawFlag_draws (s : State) (a : Bool) : (s.setDrawFlag a).draws = s.draws := rfl

@[simp] theorem State.setDelay_v (s : State) (a : Byte) : (s.setDelay a).v = s.v := rfl
@[simp] theorem State.setDelay_i (s : State) (a : Byte) : (s.setDelay a).i = s.i := rfl
@[simp] theorem State.setDelay_pc (s : State) (a : Byte) : (s.setDelay a).pc = s.pc := rfl
@[simp] theorem State.setDelay_stack (s : State) (a : Byte) : (s.setDelay a).stack = s.stack := rfl
@[simp] theorem State.setDelay_sp (s : State) (a : Byte) : (s.setDelay a).sp = s.sp := rfl
@[simp] theorem State.setDelay_mem (s : State) (a : Byte) : (s.setDelay a).mem = s.mem := rfl
@[simp] theorem State.setDelay_display (s : State) (a : Byte) : (s.setDelay a).display = s.display := rfl
@[simp] theorem State.setDelay_drawFlag (s : State) (a : Byte) : (s.setDelay a).drawFlag = s.drawFlag := rfl
@[simp] theorem State.setDelay_delay (s : State) (a : Byte) : (s.setDelay a).delay = a := rfl
@[simp] theorem State.setDelay_sound (s : State) (a : Byte) : (s.setDelay a).sound = s.sound := rfl
@[simp] theorem State.setDelay_keys (s : State) (a : Byte) : (s.setDelay a).keys = s.keys := rfl
@[simp] theorem State.setDelay_latch (s : State) (a : Byte) : (s.setDelay a).latch = s.latch := rfl
@[simp] theorem State.setDelay_draws (s : State) (a : Byte) : (s.setDelay a).draws = s.draws := rfl

@[simp] theorem State.setSound_v (s : State) (a : Byte) : (s.setSound a).v = s.v := rfl
@[simp] theorem State.setSound_i (s : State) (a : Byte) : (s.setSound a).i = s.i := rfl
@[simp] theorem State.setSound_pc (s : State) (a : Byte) : (s.setSound a).pc = s.pc := rfl
@[simp] theorem State.setSound_stack (s : State) (a : Byte) : (s.setSound a).stack = s.stack := rfl
@[simp] theorem State.setSound_sp (s : State) (a : Byte) : (s.setSound a).sp = s.sp := rfl
@[simp] theorem State.setSound_mem (s : State) (a : Byte) : (s.setSound a).mem = s.mem := rfl
@[simp] theorem State.setSound_display (s : State) (a : Byte) : (s.setSound a).display = s.display := rfl
@[simp] theorem State.setSound_drawFlag (s : State) (a : Byte) : (s.setSound a).drawFlag = s.drawFlag := rfl
@[simp] theorem State.setSound_delay (s : State) (a : Byte) : (s.setSound a).delay = s.delay := rfl
@[simp] theorem State.setSound_sound (s : State) (a : Byte) : (s.setSound a).sound = a := rfl
@[simp] theorem State.setSound_keys (s : State) (a : Byte) : (s.setSound a).keys = s.keys := rfl
@[simp] theorem State.setSound_latch (s : State) (a : Byte) : (s.setSound a).latch = s.latch := rfl
@[simp] theorem State.setSound_draws (s : State) (a : Byte) : (s.setSound a).draws = s.draws := rfl

@[simp] theorem State.setKeys_v (s : State) (a : Vector Bool 16) : (s.setKeys a).v = s.v := rfl
@[simp] theorem State.setKeys_i (s : State) (a : Vector Bool 16) : (s.setKeys a).i = s.i := rfl
@[simp] theorem State.setKeys_pc (s : State) (a : Vector Bool 16) : (s.setKeys a).pc = s.pc := rfl
@[simp] theorem State.setKeys_stack (s : State) (a : Vector Bool 16) : (s.setKeys a).stack = s.stack := rfl
@[simp] theorem State.setKeys_sp (s : State) (a : Vector Bool 16) : (s.setKeys a).sp = s.sp := rfl
@[simp] theorem State.setKeys_mem (s : State) (a : Vector Bool 16) : (s.setKeys a).mem = s.mem := rfl
@[simp] theorem State.setKeys_display (s : State) (a : Vector Bool 16) : (s.setKeys a).display = s.display := rfl
@[simp] theorem State.setKeys_drawFlag (s : State) (a : Vector Bool 16) : (s.setKeys a).drawFlag = s.drawFlag := rfl
@[simp] theorem State.setKeys_delay (s : State) (a : Vector Bool 16) : (s.setKeys a).delay = s.delay := rfl
@[simp] theorem State.setKeys_sound (s : State) (a : Vector Bool 16) : (s.setKeys a).sound = s.sound := rfl
@[simp] theorem State.setKeys_keys (s : State) (a : Vector Bool 16) : (s.setKeys a).keys = a := rfl
@[simp] theorem State.setKeys_latch (s : State) (a : Vector Bool 16) : (s.setKeys a).latch = s.latch := rfl
@[simp] theorem State.setKeys_draws (s : State) (a : Vector Bool 16) : (s.setKeys a).draws = s.draws := rfl

@[simp] theorem State.setLatch_v (s : State) (a : FaultLatch) : (s.setLatch a).v = s.v := rfl
@[simp] theorem State.setLatch_i (s : State) (a : FaultLatch) : (s.setLatch a).i = s.i := rfl
@[simp] theorem State.setLatch_pc (s : State) (a : FaultLatch) : (s.setLatch a).pc = s.pc := rfl
@[simp] theorem State.setLatch_stack (s : State) (a : FaultLatch) : (s.setLatch a).stack = s.stack := rfl
@[simp] theorem State.setLatch_sp (s : State) (a : FaultLatch) : (s.setLatch a).sp = s.sp := rfl
@[simp] theorem State.setLatch_mem (s : State) (a : FaultLatch) : (s.setLatch a).mem = s.mem := rfl
@[simp] theorem State.setLatch_display (s : State) (a : FaultLatch) : (s.setLatch a).display = s.display := rfl
@[simp] theorem State.setLatch_drawFlag (s : State) (a : FaultLatch) : (s.setLatch a).drawFlag = s.drawFlag := rfl
@[simp] theorem State.setLatch_delay (s : State) (a : FaultLatch) : (s.setLatch a).delay = s.delay := rfl
@[simp] theorem State.setLatch_sound (s : State) (a : FaultLatch) : (s.setLatch a).sound = s.sound := rfl
@[simp] theorem State.setLatch_keys (s : State) (a : FaultLatch) : (s.setLatch a).keys = s.keys := rfl
@[simp] theorem State.setLatch_latch (s : State) (a : FaultLatch) : (s.setLatch a).latch = a := rfl
@[simp] theorem State.setLatch_draws (s : State) (a : FaultLatch) : (s.setLatch a).draws = s.draws := rfl

@[simp] theorem State.setDraws_v (s : State) (a : Nat) : (s.setDraws a).v = s.v := rfl
@[simp] theorem State.setDraws_i (s : State) (a : Nat) : (s.setDraws a).i = s.i := rfl
@[simp] theorem State.setDraws_pc (s : State) (a : Nat) : (s.setDraws a).pc = s.pc := rfl
@[simp] theorem State.setDraws_stack (s : State) (a : Nat) : (s.setDraws a).stack = s.stack := rfl
@[simp] theorem State.setDraws_sp (s : State) (a : Nat) : (s.setDraws a).sp = s.sp := rfl
@[simp] theorem State.setDraws_mem (s : State) (a : Nat) : (s.setDraws a).mem = s.mem := rfl
@[simp] theorem State.setDraws_display (s : State) (a : Nat) : (s.setDraws a).display = s.display := rfl
@[simp] theorem State.setDraws_drawFlag (s : State) (a : Nat) : (s.setDraws a).drawFlag = s.drawFlag := rfl
@[simp] theorem State.setDraws_delay (s : State) (a : Nat) : (s.setDraws a).delay = s.delay := rfl
@[simp] theorem State.setDraws_sound (s : State) (a : Nat) : (s.setDraws a).sound = s.sound := rfl
@[simp] theorem State.setDraws_keys (s : State) (a : Nat) : (s.setDraws a).keys = s.keys := rfl
@[simp] theorem State.setDraws_latch (s : State) (a : Nat) : (s.setDraws a).latch = s.latch := rfl
@[simp] theorem State.setDraws_draws (s : State) (a : Nat) : (s.setDraws a).draws = a := rfl

@[simp] theorem State.setI_reg (s : State) (a : Word) (x : RegIdx) : (s.setI a).reg x = s.reg x := rfl
@[simp] theorem State.setPc_reg (s : State) (a : Word) (x : RegIdx) : (s.setPc a).reg x = s.reg x := rfl
@[simp] theorem State.setStack_reg (s : State) (a : Vector Word 16) (x : RegIdx) : (s.setStack a).reg x = s.reg x := rfl
@[simp] theorem State.setSp_reg (s : State) (a : Fin 17) (x : RegIdx) : (s.setSp a).reg x = s.reg x := rfl
@[simp] theorem State.setMem_reg (s : State) (a : Memory) (x : RegIdx) : (s.setMem a).reg x = s.reg x := rfl
@[simp] theorem State.setDisplay_reg (s : State) (a : Display) (x : RegIdx) : (s.setDisplay a).reg x = s.reg x := rfl
@[simp] theorem State.setDrawFlag_reg (s : State) (a : Bool) (x : RegIdx) : (s.setDrawFlag a).reg x = s.reg x := rfl
@[simp] theorem State.setDelay_reg (s : State) (a : Byte) (x : RegIdx) : (s.setDelay a).reg x = s.reg x := rfl
@[simp] theorem State.setSound_reg (s : State) (a : Byte) (x : RegIdx) : (s.setSound a).reg x = s.reg x := rfl
@[simp] theorem State.setKeys_reg (s : State) (a : Vector Bool 16) (x : RegIdx) : (s.setKeys a).reg x = s.reg x := rfl
@[simp] theorem State.setLatch_reg (s : State) (a : FaultLatch) (x : RegIdx) : (s.setLatch a).reg x = s.reg x := rfl
@[simp] theorem State.setDraws_reg (s : State) (a : Nat) (x : RegIdx) : (s.setDraws a).reg x = s.reg x := rfl
@[simp] theorem State.setRegs_reg (s : State) (a : Vector Byte 16) (x : RegIdx) : (s.setRegs a).reg x = a[x] := rfl

/-! ## One register -/

theorem State.setReg_reg (s : State) (x y : RegIdx) (b : Byte) :
    (s.setReg x b).reg y = if y = x then b else s.reg y := by
  change (s.v.set x.val b)[y.val] = _
  rw [Vector.getElem_set]
  simp only [Fin.val_inj, eq_comm (a := x)]
  rfl

@[simp] theorem State.setReg_reg_self (s : State) (x : RegIdx) (b : Byte) : (s.setReg x b).reg x = b := by
  simp [State.setReg_reg]

theorem State.setReg_reg_of_ne (s : State) {x y : RegIdx} (b : Byte) (h : y ≠ x) :
    (s.setReg x b).reg y = s.reg y := by
  simp [State.setReg_reg, h]

@[simp] theorem State.setReg_i (s : State) (x : RegIdx) (b : Byte) : (s.setReg x b).i = s.i := rfl
@[simp] theorem State.setReg_pc (s : State) (x : RegIdx) (b : Byte) : (s.setReg x b).pc = s.pc := rfl
@[simp] theorem State.setReg_stack (s : State) (x : RegIdx) (b : Byte) : (s.setReg x b).stack = s.stack := rfl
@[simp] theorem State.setReg_sp (s : State) (x : RegIdx) (b : Byte) : (s.setReg x b).sp = s.sp := rfl
@[simp] theorem State.setReg_mem (s : State) (x : RegIdx) (b : Byte) : (s.setReg x b).mem = s.mem := rfl
@[simp] theorem State.setReg_display (s : State) (x : RegIdx) (b : Byte) : (s.setReg x b).display = s.display := rfl
@[simp] theorem State.setReg_drawFlag (s : State) (x : RegIdx) (b : Byte) : (s.setReg x b).drawFlag = s.drawFlag := rfl
@[simp] theorem State.setReg_delay (s : State) (x : RegIdx) (b : Byte) : (s.setReg x b).delay = s.delay := rfl
@[simp] theorem State.setReg_sound (s : State) (x : RegIdx) (b : Byte) : (s.setReg x b).sound = s.sound := rfl
@[simp] theorem State.setReg_keys (s : State) (x : RegIdx) (b : Byte) : (s.setReg x b).keys = s.keys := rfl
@[simp] theorem State.setReg_latch (s : State) (x : RegIdx) (b : Byte) : (s.setReg x b).latch = s.latch := rfl
@[simp] theorem State.setReg_draws (s : State) (x : RegIdx) (b : Byte) : (s.setReg x b).draws = s.draws := rfl

/-! ## Composed operations, in terms of setters -/

@[simp] theorem State.setFlag_eq (s : State) (b : Bool) : s.setFlag b = s.setReg VF (flagByte b) := rfl
@[simp] theorem State.advance_eq (s : State) : s.advance = s.setPc (s.pc + 2) := rfl
@[simp] theorem State.skipIf_eq (s : State) (c : Bool) : s.skipIf c = s.setPc (if c then s.pc + 4 else s.pc + 2) := rfl
@[simp] theorem State.writeResultAndFlag_eq (s : State) (x : RegIdx) (b : Byte) (flag : Bool) :
    s.writeResultAndFlag x b flag = ((s.setReg x b).setReg VF (flagByte flag)).setPc (s.pc + 2) := rfl
@[simp] theorem State.raise_eq (s : State) (f : Fault) (info : Word) :
    s.raise f info = s.setLatch ⟨true, f.code, s.pc, info⟩ := rfl
@[simp] theorem State.countDraw_eq (s : State) : s.countDraw = s.setDraws (s.draws + 1) := rfl
@[simp] theorem State.updateTimers_eq (s : State) :
    s.updateTimers = (s.setDelay (tick s.delay)).setSound (tick s.sound) := rfl
theorem State.draw_eq (s : State) (cx cy : Byte) (n : Nat) :
    s.draw cx cy n =
      (((s.setDisplay (drawSprite s.display cx.toNat cy.toNat (s.mem.bytes s.dataBase n)).1).setReg VF
        (flagByte (drawSprite s.display cx.toNat cy.toNat (s.mem.bytes s.dataBase n)).2)).setDrawFlag true).setPc
        (s.pc + 2) := rfl

end Sys2Proof.Machine
end

