-- ==== Sys2Proof/Laws/Ops.lean ====
section
/-! SUPPORT. One lemma per shared operation of Ops.lean and Operands.lean, saying once what it can do. -/

namespace Sys2Proof.Machine

/-! ## The range check (R61, R77, R223) -/

theorem rangeFault_eq_none_iff (base len : Nat) : rangeFault base len = none ↔ len = 0 ∨ base + len ≤ 4096 := by
  by_cases h : len = 0 ∨ base + len ≤ 4096 <;> simp [rangeFault, memSize, h]

theorem rangeFault_eq_some_iff (base len : Nat) (info : Word) :
    rangeFault base len = some info ↔ ¬ (len = 0 ∨ base + len ≤ 4096) ∧ info = BitVec.ofNat 16 (max base 4096) := by
  by_cases h : len = 0 ∨ base + len ≤ 4096 <;> simp [rangeFault, memSize, h, eq_comm]

/-- A range-checked access becomes `next`, or faults with nothing else changed. -/
theorem State.withRange_cases (s : State) (base len : Nat) (next : State) :
    ((len = 0 ∨ base + len ≤ 4096) ∧ s.withRange base len next = next) ∨
    (¬ (len = 0 ∨ base + len ≤ 4096) ∧
      s.withRange base len next = s.raise .memRange (BitVec.ofNat 16 (max base 4096))) := by
  by_cases h : len = 0 ∨ base + len ≤ 4096
  · exact .inl ⟨h, by simp [State.withRange, rangeFault, memSize, h]⟩
  · exact .inr ⟨h, by simp [State.withRange, rangeFault, memSize, h]⟩

theorem State.withRange_of_fits (s : State) {base len : Nat} (next : State) (h : len = 0 ∨ base + len ≤ 4096) :
    s.withRange base len next = next := by
  simp [State.withRange, rangeFault, memSize, h]

theorem State.withRange_of_not_fits (s : State) {base len : Nat} (next : State)
    (h : ¬ (len = 0 ∨ base + len ≤ 4096)) :
    s.withRange base len next = s.raise .memRange (BitVec.ofNat 16 (max base 4096)) := by
  simp [State.withRange, rangeFault, memSize, h]

/-! ## Registers and memory -/

theorem State.reg_loadUpTo (s : State) (x r : RegIdx) :
    (s.loadUpTo x).reg r = if r ≤ x then s.mem.get (s.i.toNat + r.val) else s.reg r := by
  simp [State.loadUpTo, State.dataBase, State.reg]

theorem State.length_regsUpTo (s : State) (x : RegIdx) : (s.regsUpTo x).length = x.val + 1 := by
  have := x.isLt
  simp only [State.regsUpTo, List.length_take, Vector.length_toList]
  omega

theorem State.getD_regsUpTo (s : State) (x r : RegIdx) (d : Byte) (h : r ≤ x) :
    (s.regsUpTo x).getD r.val d = s.reg r := by
  have h1 : r.val < x.val + 1 := Nat.lt_succ_of_le h
  have h2 := r.isLt
  simp [State.regsUpTo, State.reg, h1]

/-! ## The call stack (R26, R141, R142) -/

theorem State.push_of_lt (s : State) (target : Word) (h : s.sp.val < 16) :
    s.push target =
      ((s.setStack (s.stack.set s.sp.val s.pc)).setSp ⟨s.sp.val + 1, by omega⟩).setPc target := by
  simp [State.push, h]

theorem State.push_of_full (s : State) (target : Word) (h : s.sp.val = 16) :
    s.push target = s.raise .stackOverflow 16 := by
  simp [State.push, h]

theorem State.pop_of_pos (s : State) (h : s.sp.val ≠ 0) :
    s.pop = (s.setSp ⟨s.sp.val - 1, by omega⟩).setPc (s.stack[s.sp.val - 1]'(by omega) + 2) := by
  simp only [State.pop, h, dite_false]

theorem State.pop_of_empty (s : State) (h : s.sp.val = 0) : s.pop = s.raise .stackUnderflow 0 := by
  simp only [State.pop, h, dite_true]

/-! ## The keys (R154, R155, R203) -/

theorem keyOf_of_lt (b : Byte) (h : b.toNat < 16) : keyOf b = some ⟨b.toNat, h⟩ := by simp [keyOf, h]

theorem keyOf_of_ge (b : Byte) (h : 16 ≤ b.toNat) : keyOf b = none := by
  simp [keyOf, show ¬ b.toNat < 16 by omega]

theorem State.lowestPressed_eq_none_iff (s : State) : s.lowestPressed = none ↔ ∀ k : Fin 16, s.keys[k] = false := by
  simp [State.lowestPressed, List.find?_eq_none]

theorem State.lowestPressed_eq_some_iff (s : State) (k : Fin 16) :
    s.lowestPressed = some k ↔ s.keys[k] = true ∧ ∀ j : Fin 16, j < k → s.keys[j] = false := by
  unfold State.lowestPressed
  constructor
  · intro h
    refine ⟨by simpa using List.find?_some h, fun j hj => ?_⟩
    rw [List.find?_eq_some_iff_getElem] at h
    obtain ⟨_, n, hn, hk, hlt⟩ := h
    have hnk : n = k.val := by simpa [Fin.ext_iff] using hk
    have := hlt j.val (by omega)
    simpa using this
  · rintro ⟨hk, hlt⟩
    rw [List.find?_eq_some_iff_getElem]
    refine ⟨by simpa using hk, k.val, by simp, by simp, fun j hj => ?_⟩
    have := hlt ⟨j, by omega⟩ hj
    simpa using this

/-! ## The timers (R125) -/

theorem toNat_tick (b : Byte) : (tick b).toNat = b.toNat - 1 := by
  unfold tick
  split
  · rename_i h; subst h; rfl
  · rename_i h
    have h0 : b.toNat ≠ 0 := fun he => h (BitVec.eq_of_toNat_eq (by simpa using he))
    have h1 := b.isLt
    rw [BitVec.toNat_sub]
    simp
    omega

end Sys2Proof.Machine
end

