-- ==== Sys2Proof/Laws/PerInstr.lean ====
section
/-! SUPPORT. Per-instruction laws. Family `TableRow`: the word the encoder gives an instruction has the fixed bits of that
instruction's own row of the opcode table (R93, R108, R123). -/

namespace Sys2Proof.Laws

/-! ## The fixed bits of each format -/

theorem wordNNN_fixed (op : BitVec 4) (nnn : Addr) : wordNNN op nnn &&& 0xF000 = op ++ 0#12 := by
  have hm : (0xF000 : Word) = 0xF#4 ++ 0#12 := by decide
  have h1 : op &&& 0xF#4 = op := BitVec.and_allOnes
  rw [wordNNN, hm, BitVec.and_append, h1, BitVec.and_zero]

theorem wordXNN_family (op : BitVec 4) (x : RegIdx) (nn : Byte) : wordXNN op x nn &&& 0xF000 = op ++ 0#12 := by
  have hm : (0xF000 : Word) = 0xF#4 ++ 0#4 ++ 0#8 := by decide
  have h1 : op &&& 0xF#4 = op := BitVec.and_allOnes
  rw [wordXNN, hm, BitVec.and_append, BitVec.and_append, h1, BitVec.and_zero, BitVec.and_zero]
  revert op; decide

theorem wordXNN_fixed (op : BitVec 4) (x : RegIdx) (nn : Byte) :
    wordXNN op x nn &&& 0xF0FF = op ++ 0#4 ++ nn := by
  have hm : (0xF0FF : Word) = 0xF#4 ++ 0#4 ++ 0xFF#8 := by decide
  have h1 : op &&& 0xF#4 = op := BitVec.and_allOnes
  have h2 : nn &&& 0xFF#8 = nn := BitVec.and_allOnes
  rw [wordXNN, hm, BitVec.and_append, BitVec.and_append, h1, h2, BitVec.and_zero]

theorem wordXYN_fixed (op : BitVec 4) (x y : RegIdx) (n : BitVec 4) :
    wordXYN op x y n &&& 0xF00F = op ++ 0#4 ++ 0#4 ++ n := by
  have hm : (0xF00F : Word) = 0xF#4 ++ 0#4 ++ 0#4 ++ 0xF#4 := by decide
  have h1 : op &&& 0xF#4 = op := BitVec.and_allOnes
  have h2 : n &&& 0xF#4 = n := BitVec.and_allOnes
  rw [wordXYN, hm, BitVec.and_append, BitVec.and_append, BitVec.and_append, h1, h2,
    BitVec.and_zero, BitVec.and_zero]

theorem wordXYN_family (op : BitVec 4) (x y : RegIdx) (n : BitVec 4) :
    wordXYN op x y n &&& 0xF000 = op ++ 0#12 := by
  have hm : (0xF000 : Word) = 0xF#4 ++ 0#4 ++ 0#4 ++ 0#4 := by decide
  have h1 : op &&& 0xF#4 = op := BitVec.and_allOnes
  rw [wordXYN, hm, BitVec.and_append, BitVec.and_append, BitVec.and_append, h1,
    BitVec.and_zero, BitVec.and_zero, BitVec.and_zero]
  revert op; decide

namespace TableRow

/-- The row of the opcode table for each constructor, by its place in the table. -/
def rowOf (i : Instr) : Nat :=
  match i with
  | .cls => 0
  | .ret => 1
  | .jp _ => 2
  | .call _ => 3
  | .seImm _ _ => 4
  | .sneImm _ _ => 5
  | .seReg _ _ => 6
  | .ldImm _ _ => 7
  | .addImm _ _ => 8
  | .ldReg _ _ => 9
  | .orReg _ _ => 10
  | .andReg _ _ => 11
  | .xorReg _ _ => 12
  | .addReg _ _ => 13
  | .sub _ _ => 14
  | .shr _ _ => 15
  | .subn _ _ => 16
  | .shl _ _ => 17
  | .sneReg _ _ => 18
  | .ldI _ => 19
  | .jpV0 _ => 20
  | .rnd _ _ => 21
  | .drw _ _ _ => 22
  | .skp _ => 23
  | .sknp _ => 24
  | .ldFromDt _ => 25
  | .ldKey _ => 26
  | .ldDt _ => 27
  | .ldSt _ => 28
  | .addI _ => 29
  | .ldF _ => 30
  | .ldBcd _ => 31
  | .storeRegs _ => 32
  | .loadRegs _ => 33

/-- The encoded word is selected by the instruction's own row. -/
def Statement (i : Instr) : Prop := ∃ row, opcodeTable[rowOf i]? = some row ∧ encode i &&& row.mask = row.fixed

theorem cls : Statement .cls := ⟨_, rfl, by decide⟩
theorem ret : Statement .ret := ⟨_, rfl, by decide⟩
theorem jp (nnn : Addr) : Statement (.jp nnn) := ⟨_, rfl, (wordNNN_fixed _ _).trans (by decide)⟩
theorem call (nnn : Addr) : Statement (.call nnn) := ⟨_, rfl, (wordNNN_fixed _ _).trans (by decide)⟩
theorem seImm (x : RegIdx) (nn : Byte) : Statement (.seImm x nn) := ⟨_, rfl, (wordXNN_family _ _ _).trans (by decide)⟩
theorem sneImm (x : RegIdx) (nn : Byte) : Statement (.sneImm x nn) := ⟨_, rfl, (wordXNN_family _ _ _).trans (by decide)⟩
theorem seReg (x y : RegIdx) : Statement (.seReg x y) := ⟨_, rfl, (wordXYN_fixed _ _ _ _).trans (by decide)⟩
theorem ldImm (x : RegIdx) (nn : Byte) : Statement (.ldImm x nn) := ⟨_, rfl, (wordXNN_family _ _ _).trans (by decide)⟩
theorem addImm (x : RegIdx) (nn : Byte) : Statement (.addImm x nn) := ⟨_, rfl, (wordXNN_family _ _ _).trans (by decide)⟩
theorem ldReg (x y : RegIdx) : Statement (.ldReg x y) := ⟨_, rfl, (wordXYN_fixed _ _ _ _).trans (by decide)⟩
theorem orReg (x y : RegIdx) : Statement (.orReg x y) := ⟨_, rfl, (wordXYN_fixed _ _ _ _).trans (by decide)⟩
theorem andReg (x y : RegIdx) : Statement (.andReg x y) := ⟨_, rfl, (wordXYN_fixed _ _ _ _).trans (by decide)⟩
theorem xorReg (x y : RegIdx) : Statement (.xorReg x y) := ⟨_, rfl, (wordXYN_fixed _ _ _ _).trans (by decide)⟩
theorem addReg (x y : RegIdx) : Statement (.addReg x y) := ⟨_, rfl, (wordXYN_fixed _ _ _ _).trans (by decide)⟩
theorem sub (x y : RegIdx) : Statement (.sub x y) := ⟨_, rfl, (wordXYN_fixed _ _ _ _).trans (by decide)⟩
theorem shr (x y : RegIdx) : Statement (.shr x y) := ⟨_, rfl, (wordXYN_fixed _ _ _ _).trans (by decide)⟩
theorem subn (x y : RegIdx) : Statement (.subn x y) := ⟨_, rfl, (wordXYN_fixed _ _ _ _).trans (by decide)⟩
theorem shl (x y : RegIdx) : Statement (.shl x y) := ⟨_, rfl, (wordXYN_fixed _ _ _ _).trans (by decide)⟩
theorem sneReg (x y : RegIdx) : Statement (.sneReg x y) := ⟨_, rfl, (wordXYN_fixed _ _ _ _).trans (by decide)⟩
theorem ldI (nnn : Addr) : Statement (.ldI nnn) := ⟨_, rfl, (wordNNN_fixed _ _).trans (by decide)⟩
theorem jpV0 (nnn : Addr) : Statement (.jpV0 nnn) := ⟨_, rfl, (wordNNN_fixed _ _).trans (by decide)⟩
theorem rnd (x : RegIdx) (nn : Byte) : Statement (.rnd x nn) := ⟨_, rfl, (wordXNN_family _ _ _).trans (by decide)⟩
theorem drw (x y : RegIdx) (n : Fin 16) : Statement (.drw x y n) := ⟨_, rfl, (wordXYN_family _ _ _ _).trans (by decide)⟩
theorem skp (x : RegIdx) : Statement (.skp x) := ⟨_, rfl, (wordXNN_fixed _ _ _).trans (by decide)⟩
theorem sknp (x : RegIdx) : Statement (.sknp x) := ⟨_, rfl, (wordXNN_fixed _ _ _).trans (by decide)⟩
theorem ldFromDt (x : RegIdx) : Statement (.ldFromDt x) := ⟨_, rfl, (wordXNN_fixed _ _ _).trans (by decide)⟩
theorem ldKey (x : RegIdx) : Statement (.ldKey x) := ⟨_, rfl, (wordXNN_fixed _ _ _).trans (by decide)⟩
theorem ldDt (x : RegIdx) : Statement (.ldDt x) := ⟨_, rfl, (wordXNN_fixed _ _ _).trans (by decide)⟩
theorem ldSt (x : RegIdx) : Statement (.ldSt x) := ⟨_, rfl, (wordXNN_fixed _ _ _).trans (by decide)⟩
theorem addI (x : RegIdx) : Statement (.addI x) := ⟨_, rfl, (wordXNN_fixed _ _ _).trans (by decide)⟩
theorem ldF (x : RegIdx) : Statement (.ldF x) := ⟨_, rfl, (wordXNN_fixed _ _ _).trans (by decide)⟩
theorem ldBcd (x : RegIdx) : Statement (.ldBcd x) := ⟨_, rfl, (wordXNN_fixed _ _ _).trans (by decide)⟩
theorem storeRegs (x : RegIdx) : Statement (.storeRegs x) := ⟨_, rfl, (wordXNN_fixed _ _ _).trans (by decide)⟩
theorem loadRegs (x : RegIdx) : Statement (.loadRegs x) := ⟨_, rfl, (wordXNN_fixed _ _ _).trans (by decide)⟩

end TableRow

end Sys2Proof.Laws
end

