-- ==== Sys2Proof/Laws/Step.lean ====
section
/-! SUPPORT. What a step can do, said once. -/

namespace Sys2Proof.Machine

/-- The step as one case split: latched, fetch out of range, or the selected operation with what follows it (R120). -/
theorem step_eq (s : State) :
    step s =
      if s.latch.fault then .next s
      else
        match rangeFault s.pc.toNat 2 with
        | some info => .next (s.raise .memRange info)
        | none =>
          match operation s.fetchWord s with
          | .next t => .next (if t.latch.fault then t else t.updateTimers)
          | .fault f => .fault f
          | .refused r => .refused r := by
  unfold step cycle
  by_cases hf : s.latch.fault = true
  · simp [hf]
  · cases hr : rangeFault s.pc.toNat 2 with
    | some info => simp [hf, finish]
    | none =>
      cases ho : operation s.fetchWord s with
      | next t => by_cases ht : t.latch.fault = true <;> simp [hf, finish, ht]
      | fault f => simp [hf]
      | refused r => simp [hf]

/-- An operation that is an instruction's meaning. -/
theorem operation_of_instr {w : Word} {i : Instr} (h : decodeWord w = .instr i) (s : State) :
    operation w s = exec i s := by
  simp [operation, h]

/-- The operation of a word that is no instruction. -/
theorem operation_of_unknown {w u : Word} (h : decodeWord w = .unknown u) (s : State) :
    operation w s = .next (s.setPc (s.pc + 2)) := by
  simp [operation, h, execUnknown]

end Sys2Proof.Machine
end

