-- ==== Sys2Proof/Tests/Slice0.lean ====
section
/-! SUPPORT. Tests of the model on small states, and a witness for every statement of Obligations.lean that has
hypotheses. Expected values are the spec's (95_test_vectors.md S1 to S7, V1 to V9, and 30_encoding.md R108), never the
model's own answers. -/

namespace Sys2Proof.Tests

open Sys2Proof.Machine Sys2Proof.Claims

/-! ## Helpers -/

/-- The reset state with the repaint flag acknowledged (its reset value is an open parameter). -/
def base : State := State.reset.ackRepaint

/-- `base` with the word `w` where the next step fetches. -/
def at' (w : Nat) : State := base.withFetchWord 16 w

/-- `s` with `pc = p` and the word `w` there. -/
def atPc (p : Word) (w : Nat) : State := (base.setPc p).withFetchWord 16 w

/-- A stack holding `n` return addresses, all 0x0204. -/
def deep (s : State) (n : Fin 17) : State := (s.setStack (Vector.replicate 16 0x0204)).setSp n

/-- One byte of memory written. -/
def poke (s : State) (a : Nat) (b : Byte) : State := s.setMem (s.mem.set a b)

/-- The outcome is a next state with the property `p`. -/
def after (r : Result) (p : State → Bool) : Bool :=
  match r with
  | .next t => p t
  | .fault _ => false
  | .refused _ => false

/-- The step completes or faults with the report `p`. -/
def reports (r : Host.Outcome (State × StepReport) Fault Refusal) (p : StepReport → Bool) : Bool :=
  match r with
  | .next (_, q) => p q
  | .fault _ => false
  | .refused _ => false

/-- The latch as a fault with this code, `fault_pc` and `fault_info` leaves it. -/
def latched (t : State) (code : BitVec 3) (pc info : Word) : Bool :=
  t.latch == ⟨true, code, pc, info⟩

/-- The word decodes to the instruction, and the instruction encodes to the word. -/
def isWordOf (w : Word) (i : Instr) : Bool := decodeWord w == .instr i && encode i == w

theorem next_of_after {r : Result} {p : State → Bool} (h : after r p = true) : ∃ t, r = .next t ∧ p t = true := by
  cases r with
  | next t => exact ⟨t, rfl, h⟩
  | fault f => cases h
  | refused q => cases h

/-! ## Decoding (30_encoding.md R108; 95_test_vectors.md V1): every constructor's word, written out -/

theorem test_decode_family_0_1_2 :
    (isWordOf 0x00E0 .cls && isWordOf 0x00EE .ret && isWordOf 0x1234 (.jp 0x234) &&
      isWordOf 0x2210 (.call 0x210)) = true := by decide

theorem test_decode_skips :
    (isWordOf 0x3F01 (.seImm 15 0x01) && isWordOf 0x4310 (.sneImm 3 0x10) && isWordOf 0x5120 (.seReg 1 2) &&
      isWordOf 0x9120 (.sneReg 1 2) && isWordOf 0xE49E (.skp 4) && isWordOf 0xE4A1 (.sknp 4)) = true := by decide

theorem test_decode_load_and_logic :
    (isWordOf 0x60EA (.ldImm 0 0xEA) && isWordOf 0x70FF (.addImm 0 0xFF) && isWordOf 0x8010 (.ldReg 0 1) &&
      isWordOf 0x8011 (.orReg 0 1) && isWordOf 0x8012 (.andReg 0 1) && isWordOf 0x8013 (.xorReg 0 1)) = true := by
  decide

theorem test_decode_arithmetic :
    (isWordOf 0x8AB4 (.addReg 10 11) && isWordOf 0x8015 (.sub 0 1) && isWordOf 0x8206 (.shr 2 0) &&
      isWordOf 0x80F7 (.subn 0 15) && isWordOf 0x801E (.shl 0 1)) = true := by decide

theorem test_decode_index_random_display :
    (isWordOf 0xA300 (.ldI 0x300) && isWordOf 0xB2F0 (.jpV0 0x2F0) && isWordOf 0xC10F (.rnd 1 0x0F) &&
      isWordOf 0xD123 (.drw 1 2 3)) = true := by decide

theorem test_decode_family_F :
    (isWordOf 0xF307 (.ldFromDt 3) && isWordOf 0xF20A (.ldKey 2) && isWordOf 0xF015 (.ldDt 0) &&
      isWordOf 0xF018 (.ldSt 0) && isWordOf 0xF11E (.addI 1) && isWordOf 0xF029 (.ldF 0) &&
      isWordOf 0xF033 (.ldBcd 0) && isWordOf 0xF355 (.storeRegs 3) && isWordOf 0xF365 (.loadRegs 3)) = true := by
  decide

/-- The words of V1 that are no instruction. -/
theorem test_decode_unknown :
    [0x5121, 0x912F, 0x0000, 0x00E1, 0x01E0, 0x0200, 0x8AB8, 0x8ABF, 0xE19F, 0xF1FF, 0xF175].all
      (fun w : Word => decodeWord w == .unknown w) = true := by decide

/-- No two rows of the opcode table select one word (R102, R123). -/
theorem test_rows_disjoint :
    opcodeTable.Pairwise fun r q => r.mask &&& q.mask &&& (r.fixed ^^^ q.fixed) ≠ 0 := by decide

theorem test_decode_bytes_truncated : decodeBytes [0x12] = .truncated := by decide

theorem test_decode_table_word :
    decodeTableWord 16 0xD123 = some (.drw 1 2 3) ∧ decodeTableWord 16 0x5121 = none := by decide

/-! ## Well-formedness smoke (70_reset_and_hazards.md R264, R265): the longest image, and one byte more -/

theorem test_wellformed_longest_image : imageWellFormed (List.replicate 3584 0x00) = true := by
  rw [imageWellFormed, List.length_replicate]; rfl

theorem test_illformed_image_refused : imageWellFormed (List.replicate 3585 0x00) = false := by
  rw [imageWellFormed, List.length_replicate]; rfl

theorem test_wellformed_empty_image : imageWellFormed [] = true := by decide

/-! ## Reset (S1) -/

theorem test_reset :
    State.reset.pc = 0x0200 ∧ State.reset.sp = 0 ∧ State.reset.i = 0 ∧ State.reset.latch.fault = false ∧
      State.reset.mem.get 0x50 = 0 ∧ State.reset.mem.get 0xFFF = 0 := by decide

/-- With the parameter at its default (93_implementation_defined.md G3; log 1), the font at both ends. -/
theorem test_reset_font (h : usesDefaultFont) : State.reset.mem.get 0 = 0xF0 ∧ State.reset.mem.get 0x4F = 0x80 := by
  change fontTable.getD 0 0 = 0xF0 ∧ fontTable.getD 0x4F 0 = 0x80
  rw [h]; decide

theorem test_default_font_length : defaultFont.length = 80 := by decide

/-! ## The step (V1, V9) -/

/-- Word `0000` at 0x200 with `delay = 3`: a no-op with its event. -/
theorem test_step_unknown :
    (after (step (base.setDelay 3)) fun t => t.pc == 0x0202 && t.delay == 2) = true ∧
    (reports (cycle (base.setDelay 3)) fun r =>
      r.event == some ⟨0x0000, 0x0200⟩ && !r.repaint && !r.toneReq) = true := by decide

/-- An odd `pc`. -/
theorem test_step_odd_pc :
    (after (step (atPc 0x0201 0x6005)) fun t => t.reg 0 == 5 && t.pc == 0x0203) = true := by decide

theorem test_step_last_fetch :
    (after (step (base.setPc 0x0FFE)) fun t => t.pc == 0x1000 && t.latch == FaultLatch.clear) = true := by decide

theorem test_step_fetch_faults :
    (after (step (base.setPc 0x0FFF)) fun t => latched t 1 0x0FFF 0x1000 && t.pc == 0x0FFF) = true ∧
    (after (step (base.setPc 0x10FE)) fun t => latched t 1 0x10FE 0x10FE) = true := by decide

/-- V9: the faulting step leaves the timers, and the next step changes nothing and reports code 2. -/
theorem test_step_faulted :
    (after (step ((deep (atPc 0x0300 0x2400) 16).setSound 1)) fun t =>
      latched t 2 0x0300 16 && t.sound == 1 && t.sp == 16 && after (step t) (· == t) &&
        reports (cycle t) fun r => r == .faulted 2 false && !r.toneReq) = true ∧
    (reports (cycle ((deep (atPc 0x0300 0x2400) 16).setSound 1)) fun r => r == .faulted 2 false && !r.toneReq) =
      true := by decide

/-! ## Control flow (V2) -/

theorem test_jp : (after (step (at' 0x1FFF)) fun t => t.pc == 0x0FFF) = true := by decide

theorem test_call :
    (after (step (deep (atPc 0x0300 0x2400) 15)) fun t =>
      t.stack[15] == 0x0300 && t.stack[14] == 0x0204 && t.sp == 16 && t.pc == 0x0400) = true := by decide

theorem test_ret :
    (after (step (deep (atPc 0x0212 0x00EE) 1)) fun t =>
      t.sp == 0 && t.pc == 0x0206 && t.stack[0] == 0x0204) = true := by decide

theorem test_ret_empty :
    (after (step (at' 0x00EE)) fun t => latched t 3 0x0200 0 && t.pc == 0x0200 && t.sp == 0) = true := by decide

theorem test_jp_v0 :
    (after (step ((at' 0xBFFF).setReg 0 0xFF)) fun t => t.pc == 0x10FE) = true ∧
    (after (step (((at' 0xB2F0).setReg 0 0x01).setReg 2 0x80)) fun t => t.pc == 0x02F1) = true := by decide

/-! ## Skips (V3) -/

theorem test_se_imm :
    (after (step ((at' 0x3F01).setReg 15 0x01)) fun t => t.pc == 0x0204) = true ∧
    (after (step ((at' 0x3000).setReg 0 0x01)) fun t => t.pc == 0x0202) = true := by decide

theorem test_sne_imm :
    (after (step ((at' 0x4310).setReg 3 0x10)) fun t => t.pc == 0x0202) = true ∧
    (after (step ((at' 0x4311).setReg 3 0x10)) fun t => t.pc == 0x0204) = true := by decide

theorem test_se_reg :
    (after (step (((at' 0x5120).setReg 1 0x7F).setReg 2 0x7F)) fun t => t.pc == 0x0204) = true ∧
    (after (step (((at' 0x5120).setReg 1 0x7F).setReg 2 0x80)) fun t => t.pc == 0x0202) = true := by decide

theorem test_sne_reg :
    (after (step (((at' 0x9120).setReg 1 0x01).setReg 2 0x02)) fun t => t.pc == 0x0204) = true ∧
    (after (step ((at' 0x9440).setReg 4 0x33)) fun t => t.pc == 0x0202) = true := by decide

theorem test_skp :
    (after (step (((at' 0xE49E).setReg 4 0x0F).setKey 15 true)) fun t => t.pc == 0x0204) = true ∧
    (after (step ((at' 0xE49E).setReg 4 0x10)) fun t => latched t 5 0x0200 0x0010 && t.pc == 0x0200) = true := by
  decide

theorem test_sknp :
    (after (step (((at' 0xE4A1).setReg 4 0x07).setKey 7 true)) fun t => t.pc == 0x0202) = true ∧
    (after (step (((at' 0xE4A1).setReg 4 0x17).setKey 7 true)) fun t => latched t 5 0x0200 0x0017) = true := by decide

/-! ## Register load and arithmetic (V4) -/

theorem test_ld_imm : (after (step (at' 0x6F07)) fun t => t.reg 15 == 0x07 && t.pc == 0x0202) = true := by decide

theorem test_add_imm :
    (after (step (((at' 0x7002).setReg 0 0xFF).setReg 15 0x55)) fun t => t.reg 0 == 0x01 && t.reg 15 == 0x55) =
      true := by decide

theorem test_ld_reg : (after (step ((at' 0x8010).setReg 1 0x42)) fun t => t.reg 0 == 0x42) = true := by decide

theorem test_or :
    (after (step ((((at' 0x8011).setReg 0 0xF0).setReg 1 0x0F).setReg 15 0x01)) fun t =>
      t.reg 0 == 0xFF && t.reg 15 == 0x01) = true := by decide

theorem test_and :
    (after (step (((at' 0x8012).setReg 0 0xF3).setReg 1 0x3F)) fun t => t.reg 0 == 0x33 && t.reg 1 == 0x3F) = true := by
  decide

theorem test_xor :
    (after (step (((at' 0x8013).setReg 0 0xFF).setReg 1 0x0F)) fun t => t.reg 0 == 0xF0 && t.reg 1 == 0x0F) = true := by
  decide

/-- S3, and a pair on which the AND heuristic and the true carry differ. -/
theorem test_add_reg :
    (after (step (((at' 0x8014).setReg 0 0xFF).setReg 1 0x01)) fun t => t.reg 0 == 0x00 && t.reg 15 == 0x01) = true ∧
    (after (step (((at' 0x8014).setReg 0 0x01).setReg 1 0x01)) fun t => t.reg 0 == 0x02 && t.reg 15 == 0x01) =
      true := by decide

/-- The flag wins when the destination is `V[15]` (R163), and the old `V[15]` is the operand. -/
theorem test_add_reg_vf :
    (after (step (((at' 0x8F14).setReg 15 0xFF).setReg 1 0x01)) fun t => t.reg 15 == 0x01) = true ∧
    (after (step (((at' 0x80F4).setReg 0 0x10).setReg 15 0x01)) fun t => t.reg 0 == 0x11 && t.reg 15 == 0x00) =
      true := by decide

theorem test_sub :
    (after (exec (.sub 0 1) (((at' 0x8015).setReg 0 0x03).setReg 1 0x05)) fun t => t.reg 0 == 0xFE && t.reg 1 == 0x05) =
      true := by decide

theorem test_subn :
    (after (exec (.subn 0 1) (((at' 0x8017).setReg 0 0x03).setReg 1 0x05)) fun t =>
      t.reg 1 == 0x02 && t.reg 0 == 0x03) = true := by decide

theorem test_shr :
    (after (step (((at' 0x8016).setReg 0 0xFF).setReg 1 0x10)) fun t =>
      t.reg 0 == 0x7F && t.reg 1 == 0x10 && t.reg 15 == 0x01) = true ∧
    (after (step ((at' 0x8F06).setReg 15 0x02)) fun t => t.reg 15 == 0x00) = true := by decide

theorem test_shl :
    (after (step ((at' 0x820E).setReg 2 0x81)) fun t => t.reg 2 == 0x02 && t.reg 15 == 0x01) = true ∧
    (after (step ((at' 0x800E).setReg 0 0x40)) fun t => t.reg 0 == 0x80 && t.reg 15 == 0x00) = true := by decide

/-! ## Index register and random (V5) -/

theorem test_ld_i : (after (step ((at' 0xAFFF).setI 0xFFFF)) fun t => t.i == 0x0FFF) = true := by decide

theorem test_add_i :
    (after (step (((at' 0xF01E).setI 0xFFFF).setReg 0 0x02)) fun t => t.i == 0x0001 && t.reg 15 == 0x00) = true ∧
    (after (step (((at' 0xF01E).setI 0x0FFF).setReg 0 0x01)) fun t => t.i == 0x1000 && t.reg 15 == 0x00) = true := by
  decide

theorem test_ld_f :
    (after (step ((at' 0xF029).setReg 0 0x0F)) fun t => t.i == 0x004B) = true ∧
    (after (step ((at' 0xF029).setReg 0 0xFF)) fun t => t.i == 0x04FB) = true := by decide

/-- `C100` gives 0x00 whatever the draw. -/
theorem test_rnd : ∃ t, step ((at' 0xC100).setReg 1 0x77) = .next t ∧ t.reg 1 = 0 ∧ t.draws = 1 :=
  ⟨_, rfl, by rw [State.reg]; exact BitVec.and_zero, rfl⟩

/-! ## Display (V6) -/

/-- Cell `k` of a state. -/
def on (t : State) (k : Nat) : Bool := Display.cell t.display k

theorem test_cls :
    (after (step (((at' 0x00E0).setDisplay (Display.flip (Display.flip base.display 5) 2047)).setReg 15 0x01)) fun t =>
      t.display == Vector.replicate 32 0 && t.drawFlag && t.reg 15 == 0x01) = true := by decide

/-- S4: `D011` on a clear display, then again. -/
theorem test_drw_twice :
    (after (step (((poke (at' 0xD011) 0x020C 0xA5).setI 0x020C).setReg 0 3 |>.setReg 1 2)) fun t =>
      on t 131 && on t 133 && on t 136 && on t 138 && !on t 132 && t.reg 15 == 0x00 && t.drawFlag &&
        after (exec (.drw 0 1 1) t) fun u => u.display == Vector.replicate 32 0 && u.reg 15 == 0x01) = true := by decide

/-- The last legal position, the first illegal one with an all-zero sprite, and both faults at once. -/
theorem test_drw_edges :
    (after (step (((poke (at' 0xD011) 0x300 0xFF).setI 0x300).setReg 0 56 |>.setReg 1 31)) fun t =>
      on t 2040 && on t 2047 && !on t 2039 && t.reg 15 == 0x00) = true ∧
    (after (step (((at' 0xD011).setI 0x300).setReg 0 57 |>.setReg 1 31)) fun t =>
      latched t 4 0x0200 0x1F39 && !t.drawFlag) = true ∧
    (after (step (((at' 0xD012).setI 4095).setReg 0 60)) fun t => latched t 1 0x0200 0x1000) = true := by decide

/-! ## Timers and key wait (V7) -/

theorem test_ld_from_dt :
    (after (step ((at' 0xF307).setDelay 0x2A)) fun t => t.reg 3 == 0x2A && t.delay == 0x29) = true := by decide

theorem test_ld_dt : (after (step ((at' 0xF015).setReg 0 0x03)) fun t => t.delay == 0x02) = true := by decide

/-- Writing 1 requests the tone in the writing step. -/
theorem test_ld_st :
    (reports (cycle ((at' 0xF018).setReg 0 0x01)) fun r => r.toneReq) = true ∧
    (after (step ((at' 0xF018).setReg 0 0x03)) fun t => t.sound == 0x02) = true := by decide

/-- S6. -/
theorem test_ld_key :
    (after (step (((atPc 0x0206 0xF20A).setReg 2 0x55).setDelay 2)) fun t =>
      t.pc == 0x0206 && t.reg 2 == 0x55 && t.delay == 1) = true ∧
    (after (step (((at' 0xF20A).setKey 7 true).setKey 9 true)) fun t => t.reg 2 == 0x07 && t.pc == 0x0202) = true := by
  decide

/-! ## Memory instructions (V8) -/

/-- S5. -/
theorem test_ld_bcd :
    (after (step (((at' 0xF033).setReg 0 234).setI 0x300)) fun t =>
      t.mem.bytes 0x2FF 5 == [0, 2, 3, 4, 0] && t.i == 0x300 && t.mem.wf) = true ∧
    (after (step (((at' 0xF033).setReg 0 255).setI 4094)) fun t =>
      latched t 1 0x0200 0x1000 && t.mem.bytes 4094 2 == [0, 0]) = true := by decide

theorem test_store_regs :
    (after (step (((((at' 0xF355).setReg 0 0x11).setReg 1 0x22).setReg 2 0x33).setReg 3 0x44 |>.setReg 4 0x99
        |>.setI 0x300)) fun t => t.mem.bytes 0x300 5 == [0x11, 0x22, 0x33, 0x44, 0] && t.i == 0x300) = true ∧
    (after (step (((at' 0xFF55).setReg 15 0xAB).setI 4081)) fun t =>
      latched t 1 0x0200 0x1000 && t.mem.get 4095 == 0) = true := by decide

theorem test_load_regs :
    (after (step (((poke (poke (poke (at' 0xF265) 0x300 1) 0x301 2) 0x302 3).setI 0x300).setReg 3 0x99))
      fun t => t.reg 0 == 1 && t.reg 1 == 2 && t.reg 2 == 3 && t.reg 3 == 0x99 && t.i == 0x300) = true ∧
    (after (step ((at' 0xF165).setI 4095)) fun t => latched t 1 0x0200 0x1000) = true := by decide

/-! ## The host's transactions (V9) -/

theorem test_load_program :
    (match base.loadProgram [0x00, 0xE0] with
      | .ok t => t.fetchWord == 0x00E0 && t.pc == 0x0200
      | .error _ => false) = true := by decide

/-! ## Witnesses: states and operands that meet the hypotheses of the statements, at the boundaries of their clauses -/

/-- An instruction stored in the last two bytes, where the fetch still succeeds. -/
def last (w : Nat) : State := atPc 0x0FFE w

/-- `s` with the five sprite bytes F0 90 90 90 F0 at 0x300 and `I` there. -/
def withSprite (s : State) : State := (s.setMem (s.mem.setBytes 0x300 [0xF0, 0x90, 0x90, 0x90, 0xF0])).setI 0x300

/-- A faulted machine. -/
def faulted : State := base.raise .stackOverflow 16

theorem witness_EncodeOfDecodeIsTheWord : decodeWord 0xD123 = .instr (.drw 1 2 3) := by decide

/-- A word one row selects, and one no row selects. -/
theorem witness_DecoderSelectsTheUniqueMatchingRow :
    (∃ r ∈ opcodeTable, (0x00E0 : Word) &&& r.mask = r.fixed) ∧
      ∀ r ∈ opcodeTable, (0x00E1 : Word) &&& r.mask ≠ r.fixed := by decide

theorem witness_StepRunsTheDecodedInstruction :
    (last 0x60EA).latch.fault = false ∧ (last 0x60EA).pc.toNat ≤ 0x0FFE ∧
      decodeWord ((last 0x60EA).mem.get (last 0x60EA).pc.toNat ++ (last 0x60EA).mem.get ((last 0x60EA).pc.toNat + 1)) =
        .instr (.ldImm 0 0xEA) ∧ ∃ t, exec (.ldImm 0 0xEA) (last 0x60EA) = .next t :=
  ⟨by decide, by decide, by decide, _, rfl⟩

theorem ready_base : Ready base := ⟨by decide, by decide⟩

theorem witness_UnknownWordIsANoOpWithAnEvent :
    Ready base ∧ ∀ r ∈ opcodeTable, base.fetchWord &&& r.mask ≠ r.fixed := ⟨ready_base, by decide⟩

/-- The fetch that reaches one byte above memory, and one that begins above it. -/
theorem witness_FetchAboveMemoryFaults :
    (base.setPc 0x0FFF).latch.fault = false ∧ 0x0FFE < (base.setPc 0x0FFF).pc.toNat ∧
      (base.setPc 0x0FFF).pc.toNat ≤ 4095 ∧ (base.setPc 0x10FE).latch.fault = false ∧
      4095 < (base.setPc 0x10FE).pc.toNat := by decide

theorem witness_FaultedMachineIsStuck : faulted.latch.fault = true := by decide

/-- The table's clauses at their boundaries: the fetch, the stack, the keys. -/
theorem witness_FaultsAreExactlyThoseOfTheTable_fetch_stack_key :
    (base.setPc 0x0FFF).latch.fault = false ∧ faultTable (base.setPc 0x0FFF) = some (1, 4096) ∧
    faultTable (base.setPc 0x0FFE) = none ∧ faultTable (base.setPc 0x10FE) = some (1, 0x10FE) ∧
    faultTable (deep (at' 0x2400) 16) = some (2, 16) ∧ faultTable (deep (at' 0x2400) 15) = none ∧
    faultTable (at' 0x00EE) = some (3, 0) ∧ faultTable (deep (at' 0x00EE) 1) = none ∧
    faultTable ((at' 0xE09E).setReg 0 16) = some (5, 16) ∧ faultTable ((at' 0xE0A1).setReg 0 15) = none := by decide

/-- The table's clauses at their boundaries: the sprite draw and the memory instructions. -/
theorem witness_FaultsAreExactlyThoseOfTheTable_memory_display :
    faultTable ((at' 0xD012).setI 4095) = some (1, 4096) ∧ faultTable ((at' 0xD011).setI 4095) = none ∧
    faultTable ((at' 0xD011).setReg 0 57) = some (4, 57) ∧ faultTable ((at' 0xD011).setReg 0 56) = none ∧
    faultTable ((at' 0xD013).setReg 1 30) = some (4, 0x1E00) ∧ faultTable ((at' 0xD012).setReg 1 30) = none ∧
    faultTable ((at' 0xD010).setI 0xFFFF) = none ∧ faultTable ((at' 0xF033).setI 4094) = some (1, 4096) ∧
    faultTable ((at' 0xF033).setI 4093) = none ∧ faultTable ((at' 0xFF55).setI 4081) = some (1, 4096) ∧
    faultTable ((at' 0xFF65).setI 4080) = none ∧ faultTable ((at' 0xF065).setI 0x1234) = some (1, 0x1234) := by decide

/-- A completed step of a ready machine, of the kinds the clauses name. -/
theorem witness_CompletedStepTicksTimersAndReports :
    (∃ t r, Ready (at' 0xF018) ∧ cycle (at' 0xF018) = .next (t, r) ∧ t.latch.fault = false ∧
      decodeWord (at' 0xF018).fetchWord = .instr (.ldSt 0)) ∧
    (∃ t r, Ready (at' 0xF015) ∧ cycle (at' 0xF015) = .next (t, r) ∧ t.latch.fault = false ∧
      decodeWord (at' 0xF015).fetchWord = .instr (.ldDt 0)) ∧
    ∃ t r, Ready base ∧ cycle base = .next (t, r) ∧ t.latch.fault = false ∧
      decodeWord base.fetchWord = .unknown 0 :=
  ⟨⟨_, _, ⟨by decide, by decide⟩, rfl, by decide, by decide⟩,
    ⟨_, _, ⟨by decide, by decide⟩, rfl, by decide, by decide⟩, _, _, ready_base, rfl, by decide, by decide⟩

/-- A step that faults, one that runs an instruction, and one that runs an unknown word. -/
theorem witness_PcAdvancesAsTheTableSays :
    (∃ t, Ready (at' 0x00EE) ∧ step (at' 0x00EE) = .next t ∧ t.latch.fault = true) ∧
    (∃ t, Ready (last 0x3000) ∧ step (last 0x3000) = .next t ∧ t.latch.fault = false ∧
      decodeWord (last 0x3000).fetchWord = .instr (.seImm 0 0)) ∧
    ∃ t, Ready base ∧ step base = .next t ∧ t.latch.fault = false ∧ decodeWord base.fetchWord = .unknown 0 :=
  ⟨⟨_, ⟨by decide, by decide⟩, rfl, by decide⟩, ⟨_, ⟨by decide, by decide⟩, rfl, by decide, by decide⟩, _, ready_base,
    rfl, by decide, by decide⟩

theorem witness_StepNeverWritesKeysNorClearsDrawFlag :
    ∃ t, step (base.setDrawFlag true) = .next t ∧ (base.setDrawFlag true).drawFlag = true := ⟨_, rfl, rfl⟩

/-- A BCD store and a register dump that change the last byte of memory. -/
theorem witness_OnlyBcdAndDumpWriteMemory :
    (∃ t, step (((at' 0xF033).setReg 0 255).setI 4093) = .next t ∧
      t.mem.get 4095 ≠ (((at' 0xF033).setReg 0 255).setI 4093).mem.get 4095) ∧
    ∃ t, step (((at' 0xFF55).setReg 15 1).setI 4080) = .next t ∧
      t.mem.get 4095 ≠ (((at' 0xFF55).setReg 15 1).setI 4080).mem.get 4095 :=
  ⟨⟨_, rfl, by decide⟩, _, rfl, by decide⟩

theorem witness_OnlyClsAndDrwWriteTheDisplay :
    (∃ t, step (at' 0x00E0) = .next t ∧ t.drawFlag ≠ (at' 0x00E0).drawFlag) ∧
    ∃ t, step (withSprite (at' 0xD015)) = .next t ∧
      Display.cell t.display 259 ≠ Display.cell (withSprite (at' 0xD015)).display 259 :=
  ⟨⟨_, rfl, by decide⟩, _, rfl, by decide⟩

theorem witness_OnlyCallAndRetUseTheStack :
    (∃ t, step (deep (at' 0x2400) 15) = .next t ∧ t.stack[15] ≠ (deep (at' 0x2400) 15).stack[15] ∧
      t.sp ≠ (deep (at' 0x2400) 15).sp) ∧
    ∃ t, step (deep (at' 0x00EE) 1) = .next t ∧ t.sp ≠ (deep (at' 0x00EE) 1).sp :=
  ⟨⟨_, rfl, by decide, by decide⟩, _, rfl, by decide⟩

theorem witness_OnlyThreeInstructionsWriteI :
    (∃ t, step (at' 0xAFFF) = .next t ∧ t.i ≠ (at' 0xAFFF).i) ∧
    (∃ t, step ((at' 0xF01E).setReg 0 1) = .next t ∧ t.i ≠ ((at' 0xF01E).setReg 0 1).i) ∧
    ∃ t, step ((at' 0xF029).setReg 0 15) = .next t ∧ t.i ≠ ((at' 0xF029).setReg 0 15).i :=
  ⟨⟨_, rfl, by decide⟩, ⟨_, rfl, by decide⟩, _, rfl, by decide⟩

theorem runs_add_vf : Runs ((at' 0x8F14).setReg 15 0xFF) (.addReg 15 1) := ⟨⟨by decide, by decide⟩, by decide⟩

theorem witness_FlagRegisterIsWrittenOnlyByItsWriters :
    (∃ t, step ((at' 0x8F14).setReg 15 0xFF) = .next t ∧ t.reg VF ≠ ((at' 0x8F14).setReg 15 0xFF).reg VF ∧
      Runs ((at' 0x8F14).setReg 15 0xFF) (.addReg 15 1) ∧ writesFlag (.addReg 15 1) = true ∧ t.latch.fault = false) ∧
    ∃ t, step (at' 0x6F07) = .next t ∧ t.reg VF ≠ (at' 0x6F07).reg VF :=
  ⟨⟨_, rfl, by decide, runs_add_vf, by decide, by decide⟩, _, rfl, by decide⟩

theorem witness_OnlyRndTakesADraw :
    (∃ t, step (at' 0xC1FF) = .next t ∧ Runs (at' 0xC1FF) (.rnd 1 0xFF)) ∧
    ∃ t, step base = .next t ∧ ∀ x nn, ¬ Runs base (.rnd x nn) :=
  ⟨⟨_, rfl, ⟨by decide, by decide⟩, by decide⟩, _, rfl, fun _ _ h => by
    have h0 : decodeWord base.fetchWord = .unknown 0 := by decide
    exact absurd (h0.symm.trans h.2) (by simp)⟩

/-- Two machines that differ in one cell under a sprite. -/
theorem witness_DisplayIsSeenOnlyThroughTheCollisionFlag :
    ∃ t u, step (withSprite (at' 0xD015)) = .next t ∧
      step { withSprite (at' 0xD015) with display := Display.flip base.display 259 } = .next u ∧ u.reg VF ≠ t.reg VF :=
  ⟨_, _, rfl, rfl, by decide⟩

/-- A state with a call outstanding satisfies the invariant. -/
theorem inv_deep : (deep (last 0x00EE) 1).Inv :=
  ⟨by decide, by unfold State.stackConsistent; decide, .inl (by decide), by decide⟩

/-- A faulted state satisfies the invariant. -/
theorem inv_faulted : faulted.Inv :=
  ⟨by decide, by unfold State.stackConsistent; decide, .inr ⟨by decide, ⟨.stackOverflow, by decide⟩, by decide⟩,
    by decide⟩

theorem witness_StepKeepsTheInvariant :
    (deep (last 0x00EE) 1).Inv ∧ (∃ t, step (deep (last 0x00EE) 1) = .next t) ∧ faulted.Inv ∧
      ∃ t, step faulted = .next t := ⟨inv_deep, ⟨_, rfl⟩, inv_faulted, _, rfl⟩

theorem witness_TransactionsKeepTheInvariant :
    faulted.Inv ∧ (∃ t a, transact .reset faulted = .next (t, a)) ∧
      (∃ t a, transact (.loadProgram [0x00, 0xE0]) faulted = .next (t, a)) ∧
      (∃ t a, transact .step faulted = .next (t, a)) ∧ (∃ t a, transact (.setKey 15 true) faulted = .next (t, a)) ∧
      (∃ t a, transact (.readDisplay 2047) faulted = .next (t, a)) ∧
      (∃ t a, transact .ackRepaint faulted = .next (t, a)) ∧ ∃ t a, transact .readFault faulted = .next (t, a) :=
  ⟨inv_faulted, ⟨_, _, rfl⟩, ⟨_, _, rfl⟩, ⟨_, _, rfl⟩, ⟨_, _, rfl⟩, ⟨_, _, rfl⟩, ⟨_, _, rfl⟩, _, _, rfl⟩

/-- `1208` at 0x208. -/
theorem witness_FinalStateIsAFixedPoint : (atPc 0x0208 0x1208).final :=
  ⟨by decide, by decide, by decide, by decide, 0x208, by decide, by decide⟩

theorem witness_ResetLeavesTheStatedValues : (79 : Nat) < 80 ∧ (80 : Nat) ≤ 80 ∧ (4095 : Nat) < 4096 := by decide

theorem witness_LoadProgramWritesTheImageOrNothing :
    (List.replicate 3584 (0x00 : Byte)).length ≤ 3584 ∧ (3583 : Nat) < (List.replicate 3584 (0x00 : Byte)).length ∧
      3584 < (List.replicate 3585 (0x00 : Byte)).length := by
  rw [List.length_replicate, List.length_replicate]; decide

theorem witness_PlacedWordIsFetched : (base.setPc 0x0FFE).pc.toNat ≤ 0x0FFE := by decide

theorem witness_CallPushesItsOwnAddressOrOverflows :
    (deep base 15).sp.val = (15 : Fin 16).val ∧ (deep base 16).sp.val = 16 := by decide

theorem witness_RetResumesAfterTheCallOrUnderflows :
    (deep base 16).sp.val = (15 : Fin 16).val + 1 ∧ (deep base 1).sp.val = (0 : Fin 16).val + 1 ∧ base.sp.val = 0 := by
  decide

/-- The deepest call that succeeds. -/
theorem witness_RetAfterCallResumesAfterTheCall :
    (deep base 15).sp.val < 16 ∧ ∃ t, exec (.call 0x400) (deep base 15) = .next t ∧ t.stack = t.stack ∧ t.sp = t.sp :=
  ⟨by decide, _, rfl, rfl, rfl⟩

theorem witness_KeySkipsTestOneKeyOrFault :
    ((base.setReg 4 15).reg 4).toNat = (15 : Fin 16).val ∧ 15 < ((base.setReg 4 16).reg 4).toNat := by decide

theorem witness_LogicActsBitByBitWithoutFlag : (0 : Nat) < 8 ∧ (7 : Nat) < 8 := by decide

theorem witness_AddSetsTheAndHeuristicFlag :
    (0 : RegIdx) ≠ VF ∧
    (∃ j, j < 8 ∧ ((base.setReg 0 0x80).reg 0).getLsbD j = true ∧ ((base.setReg 1 0x80).reg 1).getLsbD j = true) ∧
    ∀ j, j < 8 → ¬ ((base.reg 0).getLsbD j = true ∧ (base.reg 1).getLsbD j = true) :=
  ⟨by decide, ⟨7, by decide, by decide, by decide⟩, by decide⟩

/-- A sum of 256, and a sum of 255 with no shared bit. -/
theorem witness_TrueCarryImpliesTheAddFlag :
    (∃ t, exec (.addReg 0 1) ((base.setReg 0 0xFF).setReg 1 0x01) = .next t ∧
      255 < (((base.setReg 0 0xFF).setReg 1 0x01).reg 0).toNat + (((base.setReg 0 0xFF).setReg 1 0x01).reg 1).toNat) ∧
    ∃ t, exec (.addReg 0 1) ((base.setReg 0 0xF0).setReg 1 0x0F) = .next t ∧ t.reg VF = 0x00 ∧ (0 : RegIdx) ≠ VF :=
  ⟨⟨_, rfl, by decide⟩, _, rfl, by decide, by decide⟩

/-- Destinations other than the flag register, and the flag register itself. -/
theorem witness_SubtractsAndShifts : (14 : RegIdx) ≠ VF ∧ (15 : RegIdx) = VF := by decide

theorem witness_RndMasksAFreeByte : (7 : Nat) < 8 := by decide

theorem witness_ClsClearsEveryCell : (2047 : Nat) < 2048 := by decide

/-- The sprite's last legal position and last readable byte, with a lit cell under it and without. -/
theorem witness_DrwFlipsTheSpriteCellsOrFaults_draws :
    SpriteReadable (base.setI 4095) 1 ∧ SpriteOnDisplay ((base.setReg 0 56).setReg 1 31) 0 1 1 ∧
    SpriteReadable (base.setI 0xFFFF) 0 ∧ SpriteOnDisplay (base.setReg 0 200) 0 0 0 ∧
    (∃ k, SpriteBitOn (withSprite base) 0 1 5 k ∧ Display.cell (Display.flip base.display 0) k = true) ∧
    SpriteReadable (withSprite base) 5 ∧ SpriteOnDisplay base 0 1 5 ∧
      ∀ k, SpriteBitOn (withSprite base) 0 1 5 k → Display.cell base.display k = false :=
  ⟨.inr (by decide), .inr (by decide), .inl (by decide), .inl (by decide),
    ⟨0, ⟨0, 0, by decide, by decide, by decide, by decide⟩, by decide⟩, .inr (by decide), .inr (by decide),
    fun k _ => by by_cases h : k < 2048 <;> simp [Display.cell, h, base, State.ackRepaint, State.setDrawFlag, State.reset]⟩

theorem witness_DrwFlipsTheSpriteCellsOrFaults_faults :
    ¬ SpriteReadable (base.setI 4095) 2 ∧ SpriteReadable (base.setReg 0 57) 1 ∧
      ¬ SpriteOnDisplay (base.setReg 0 57) 0 1 1 := by
  simp only [SpriteReadable, SpriteOnDisplay]; decide

/-- A sprite drawn on a clear display. -/
theorem witness_DrawingTwiceRestoresTheDisplay :
    (0 : RegIdx) ≠ VF ∧ (1 : RegIdx) ≠ VF ∧ SpriteReadable (withSprite base) 5 ∧
      SpriteOnDisplay (withSprite base) 0 1 5 ∧ (∃ t, exec (.drw 0 1 5) (withSprite base) = .next t ∧ t.reg VF = 0x00) ∧
      ∃ k, SpriteBitOn (withSprite base) 0 1 5 k :=
  ⟨by decide, by decide, .inr (by decide), .inr (by decide), ⟨_, rfl, by decide⟩, 0, 0, 0, by decide, by decide, by decide,
    by decide⟩

theorem witness_KeyWaitStoresTheLowestPressedKey :
    (base.setKey 15 true).keys[(15 : Fin 16)] = true ∧
    (∀ j : Fin 16, j < 15 → (base.setKey 15 true).keys[j] = false) ∧ ∀ k : Fin 16, base.keys[k] = false := by decide

theorem witness_WaitingStepOnlyMovesTheTimers :
    Runs (last 0xF20A) (.ldKey 2) ∧ ∀ k : Fin 16, (last 0xF20A).keys[k] = false :=
  ⟨⟨⟨by decide, by decide⟩, by decide⟩, by decide⟩

theorem witness_BcdStoresThreeDigitsOrFaults :
    (base.setI 4093).i.toNat + 2 ≤ 4095 ∧ 4095 < (base.setI 4094).i.toNat + 2 := by decide

theorem witness_DumpAndLoadRanges :
    (base.setI 4080).i.toNat + (15 : RegIdx).val ≤ 4095 ∧ 4095 < (base.setI 4081).i.toNat + (15 : RegIdx).val := by
  decide

theorem witness_LoadAfterDumpRestoresTheRegisters :
    (base.setI 4080).i.toNat + (15 : RegIdx).val ≤ 4095 ∧
      ∃ t, exec (.storeRegs 15) (base.setI 4080) = .next t ∧ t.mem = t.mem ∧ t.i = t.i :=
  ⟨by decide, _, rfl, rfl, rfl⟩

/-- Both stores at the end of memory: a fetch inside the range, and one half inside it. -/
theorem witness_StoredBytesAreFetchedAsCode :
    ((Instr.ldBcd 0 = .ldBcd 0 ∧ (base.setI 4093).i.toNat + 2 ≤ 4095) ∧
      ∃ t, exec (.ldBcd 0) (base.setI 4093) = .next t ∧ (t.setPc 4092).mem = t.mem) ∧
    (Instr.storeRegs 15 = .storeRegs 15 ∧ (base.setI 4080).i.toNat + (15 : RegIdx).val ≤ 4095) ∧
      ∃ t, exec (.storeRegs 15) (base.setI 4080) = .next t ∧ (t.setPc 4094).mem = t.mem :=
  ⟨⟨by decide, _, rfl, rfl⟩, by decide, _, rfl, rfl⟩

theorem test_stored_byte :
    storedByte ((base.setI 0x300).setReg 0 234) (.ldBcd 0) 0x2FF = none ∧
      storedByte ((base.setI 0x300).setReg 0 234) (.ldBcd 0) 0x302 = some 4 ∧
      storedByte ((base.setI 4080).setReg 15 0xAB) (.storeRegs 15) 4095 = some 0xAB ∧
      storedByte ((base.setI 4080).setReg 15 0xAB) (.storeRegs 14) 4095 = none := by decide

/-- An image one byte too long. -/
def longImage : List Byte := List.replicate 3585 0x00

/-- After a load that fails, a load that succeeds gives the step back; without it, or without `reset` first, the run is
not lawful (R244). -/
theorem witness_LawfulHostKeepsItsDuties :
    3584 < longImage.length ∧
      lawful ([.reset] ++ .loadProgram longImage :: ([.loadProgram []] ++ .step :: [])) = true ∧
      lawful [.reset, .loadProgram longImage, .setKey 3 true, .step] = false ∧ lawful [.loadProgram []] = false := by
  have hlong : imageWellFormed longImage = false := test_illformed_image_refused
  refine ⟨by rw [longImage, List.length_replicate]; decide, ?_, ?_, rfl⟩
  · simp [lawful, lawfulFrom, HostPhase.allows, HostPhase.after, hlong, test_wellformed_empty_image]
  · simp [lawful, lawfulFrom, HostPhase.allows, HostPhase.after, hlong]

/-- S2 as a host run: reset, load, step, read a cell, acknowledge. -/
theorem witness_LawfulRunsReachOnlyTheInvariant :
    [Transaction.reset, .loadProgram [0x00, 0xE0], .step, .readDisplay 2047, .ackRepaint, .readFault] ≠ [] ∧
      lawful [.reset, .loadProgram [0x00, 0xE0], .step, .readDisplay 2047, .ackRepaint, .readFault] = true := by decide

theorem test_host_run :
    (match runHost [.reset, .loadProgram [0x00, 0xE0], .step, .readDisplay 2047, .ackRepaint, .readFault] faulted with
      | .next (t, answers) => t.pc == 0x0202 && !t.drawFlag &&
          answers == [.done, .done, .stepped (.completed true false none), .cell false, .done, .latch FaultLatch.clear]
      | .fault _ => false
      | .refused _ => false) = true := by decide

end Sys2Proof.Tests
end

/-! Proofs about the state (10_state.md). What a step can do is said once: `step_cases` splits the step, `Effect` lists
the forms in which an instruction can leave the machine, `exec_effect` says that every instruction takes one of them. -/

namespace Sys2Proof.Machine

open Sys2Proof.Claims

/-! ## The step, case by case (R120) -/

/-- What follows the operation of a step: nothing after a fault, else the timer update (R125, R128). -/
def State.settle (t : State) : State := if t.latch.fault then t else t.updateTimers

/-- The operation's result with other timers: all that `settle` can do. -/
theorem State.settle_eq (t : State) : ∃ a b, t.settle = (t.setDelay a).setSound b := by
  unfold State.settle
  split
  · exact ⟨t.delay, t.sound, rfl⟩
  · exact ⟨tick t.delay, tick t.sound, rfl⟩

theorem step_of_latched {s : State} (hf : s.latch.fault = true) : step s = .next s := by simp [step_eq, hf]

theorem step_of_fetch_out_of_range {s : State} (hf : s.latch.fault = false) (hpc : 0x0FFE < s.pc.toNat) :
    step s = .next (s.raise .memRange (BitVec.ofNat 16 (max s.pc.toNat 4096))) := by
  have hr := (rangeFault_eq_some_iff s.pc.toNat 2 _).mpr ⟨by omega, rfl⟩
  simp [step_eq, hf, hr]

theorem step_of_ready {s t : State} (hs : Ready s) (ho : operation s.fetchWord s = .next t) :
    step s = .next t.settle := by
  have hr := (rangeFault_eq_none_iff s.pc.toNat 2).mpr (.inr (by have := hs.2; omega))
  simp [step_eq, hs.1, hr, ho, State.settle]

theorem step_of_runs {s t : State} {i : Instr} (hr : Runs s i) (he : exec i s = .next t) :
    step s = .next t.settle :=
  step_of_ready hr.1 ((operation_of_instr hr.2 s).trans he)

theorem step_of_unknown {s : State} {w : Word} (hs : Ready s) (hw : decodeWord s.fetchWord = .unknown w) :
    step s = .next (s.setPc (s.pc + 2)).settle :=
  step_of_ready hs (operation_of_unknown hw s)

/-! ## The forms of an instruction's result -/

/-- The forms in which the operation phase of the instruction `i` can leave the machine `s` (R124, R128). -/
inductive Effect (s : State) (i : Instr) : State → Prop where
  /-- A fault: the latch and nothing else (R229). -/
  | fault (f : Fault) (info : Word) : Effect s i (s.raise f info)
  /-- A jump, a skip, or the key wait, which stays where it is. -/
  | goto (w : Word) (hw : s.pc.toNat ≤ 0x0FFE → w.toNat ≤ 0x10FE) : Effect s i (s.setPc w)
  /-- `CALL` (R141) -/
  | call (nnn : Addr) (hi : i = .call nnn) (hsp : s.sp.val < 16) :
      Effect s i (((s.setStack (s.stack.set s.sp.val s.pc)).setSp ⟨s.sp.val + 1, by omega⟩).setPc (addrWord nnn))
  /-- `RET` (R142) -/
  | ret (hi : i = .ret) (hsp : s.sp.val ≠ 0) :
      Effect s i ((s.setSp ⟨s.sp.val - 1, by omega⟩).setPc (s.stack[s.sp.val - 1]'(by omega) + 2))
  /-- General registers; `V[15]` only as the flag or as the destination (R22). -/
  | regs (v : Vector Byte 16)
      (hv : v[VF] ≠ s.reg VF → writesFlag i = true ∨ namesFlagAsDestination i = true) :
      Effect s i (s.setRegs v).advance
  /-- `RND` (R183) -/
  | rnd (x : RegIdx) (nn : Byte) (hi : i = .rnd x nn) :
      Effect s i ((s.setReg x (s.randomByte &&& nn)).countDraw).advance
  /-- `LD I`, `ADD I`, `LD F` (R23) -/
  | index (w : Word) (hi : (∃ nnn, i = .ldI nnn) ∨ (∃ x, i = .addI x) ∨ ∃ x, i = .ldF x) :
      Effect s i (s.setI w).advance
  /-- `LD DT`, `LD ST` (R201, R202) -/
  | timers (a b : Byte) : Effect s i ((s.setDelay a).setSound b).advance
  /-- `LD B`, `LD [I], Vx`: bytes from `I` on, all in memory (R65, R70). -/
  | store (x : RegIdx) (bs : List Byte)
      (hi : i = .ldBcd x ∧ bs.length = 3 ∨ i = .storeRegs x ∧ bs.length = x.val + 1)
      (hfit : s.dataBase + bs.length ≤ memSize) :
      Effect s i (s.setMem (s.mem.setBytes s.dataBase bs)).advance
  /-- `CLS` (R190) -/
  | cls (hi : i = .cls) : Effect s i ((s.setDisplay (Vector.replicate 32 0)).setDrawFlag true).advance
  /-- `DRW` (R191) -/
  | draw (x y : RegIdx) (n : Fin 16) (hi : i = .drw x y n) : Effect s i (s.draw (s.reg x) (s.reg y) n.val)

/-! ### How the shared operations take these forms -/

/-- An instruction's length or a skip on from an address that was fetched from. -/
theorem toNat_add_le {w k : Word} (h : w.toNat ≤ 0x0FFE) (hk : k.toNat ≤ 4) : (w + k).toNat ≤ 0x10FE := by
  bv_omega

section
variable {s : State} {i : Instr}

theorem Effect.skipIf (c : Bool) : Effect s i (s.skipIf c) :=
  .goto _ fun h => by
    cases c with
    | true => exact toNat_add_le h (by decide)
    | false => exact toNat_add_le h (by decide)

theorem Effect.skipIfKey (b : Byte) (level : Bool) : Effect s i (s.skipIfKey b level) := by
  unfold State.skipIfKey
  split
  · exact .skipIf _
  · exact .fault ..

theorem Effect.setReg {x : RegIdx} (b : Byte) (hi : namesFlagAsDestination i = (x == VF)) :
    Effect s i (s.setReg x b).advance := by
  refine .regs _ fun hv => .inr ?_
  rw [hi, beq_iff_eq]
  by_contra hx
  exact hv (s.setReg_reg_of_ne b (Ne.symm hx))

theorem Effect.writeResultAndFlag (x : RegIdx) (b : Byte) (flag : Bool) (hi : writesFlag i = true) :
    Effect s i (s.writeResultAndFlag x b flag) :=
  .regs _ fun _ => .inl hi

/-- A range-checked access takes the form of the access, or faults (R61, R77). -/
theorem Effect.withRange {base len : Nat} {next : State} (h : len = 0 ∨ base + len ≤ 4096 → Effect s i next) :
    Effect s i (s.withRange base len next) := by
  obtain ⟨hfit, heq⟩ | ⟨-, heq⟩ := s.withRange_cases base len next <;> rw [heq]
  · exact h hfit
  · exact .fault ..

theorem Effect.storeBytes (x : RegIdx) (bs : List Byte) {len : Nat} (hlen : bs.length = len)
    (hi : i = .ldBcd x ∧ len = 3 ∨ i = .storeRegs x ∧ len = x.val + 1) :
    Effect s i (s.withRange s.dataBase len (s.setMem (s.mem.setBytes s.dataBase bs)).advance) := by
  subst hlen
  exact .withRange fun hfit => .store x bs hi (by simp only [memSize]; omega)

end

theorem toNat_addrWord (nnn : Addr) : (addrWord nnn).toNat = nnn.toNat :=
  BitVec.toNat_setWidth_of_le (by decide)

theorem toNat_byteWord (b : Byte) : (byteWord b).toNat = b.toNat :=
  BitVec.toNat_setWidth_of_le (by decide)

theorem exec_ldKey_of_pressed {s : State} {k : Fin 16} (x : RegIdx) (h : s.lowestPressed = some k) :
    exec (.ldKey x) s = .next (s.setReg x (BitVec.ofNat 8 k.val)).advance := by
  simp [exec, execLdKey, h]

theorem exec_ldKey_of_released {s : State} (x : RegIdx) (h : s.lowestPressed = none) :
    exec (.ldKey x) s = .next s := by
  simp [exec, execLdKey, h]

/-- `DRW` faults or draws (R191). -/
theorem exec_drw_cases (x y : RegIdx) (n : Fin 16) (s : State) :
    ∃ t, exec (.drw x y n) s = .next t ∧
      ((∃ f info, t = s.raise f info) ∨ t = s.draw (s.reg x) (s.reg y) n.val) := by
  refine ⟨_, rfl, ?_⟩
  by_cases hfit : n.val = 0 ∨ s.dataBase + n.val ≤ 4096
  · rw [s.withRange_of_fits _ hfit]
    split
    · exact .inl ⟨_, _, rfl⟩
    · exact .inr rfl
  · rw [s.withRange_of_not_fits _ hfit]
    exact .inl ⟨_, _, rfl⟩

/-- Every instruction answers a next state, in one of the forms of `Effect`. -/
theorem exec_effect (i : Instr) (s : State) : ∃ t, exec i s = .next t ∧ Effect s i t := by
  cases i with
  | cls => exact ⟨_, rfl, .cls rfl⟩
  | ret =>
    refine ⟨_, rfl, ?_⟩
    by_cases hsp : s.sp.val = 0
    · rw [s.pop_of_empty hsp]; exact .fault ..
    · rw [s.pop_of_pos hsp]; exact .ret rfl hsp
  | jp nnn => exact ⟨_, rfl, .goto _ fun _ => by have := nnn.isLt; rw [toNat_addrWord]; omega⟩
  | call nnn =>
    refine ⟨_, rfl, ?_⟩
    by_cases hsp : s.sp.val < 16
    · rw [s.push_of_lt _ hsp]; exact .call nnn rfl hsp
    · rw [s.push_of_full _ (by omega)]; exact .fault ..
  | seImm | sneImm | seReg | sneReg => exact ⟨_, rfl, .skipIf _⟩
  | skp | sknp => exact ⟨_, rfl, .skipIfKey ..⟩
  | ldImm | addImm | ldReg | orReg | andReg | xorReg | ldFromDt => exact ⟨_, rfl, .setReg _ rfl⟩
  | addReg | sub | shr | subn | shl => exact ⟨_, rfl, .writeResultAndFlag _ _ _ rfl⟩
  | ldI nnn => exact ⟨_, rfl, .index _ (.inl ⟨nnn, rfl⟩)⟩
  | addI x => exact ⟨_, rfl, .index _ (.inr (.inl ⟨x, rfl⟩))⟩
  | ldF x => exact ⟨_, rfl, .index _ (.inr (.inr ⟨x, rfl⟩))⟩
  | jpV0 nnn =>
    refine ⟨_, rfl, .goto _ fun _ => ?_⟩
    have hn := nnn.isLt
    have hb := (s.reg 0).isLt
    rw [BitVec.toNat_add, toNat_addrWord, toNat_byteWord]
    omega
  | rnd x nn => exact ⟨_, rfl, .rnd x nn rfl⟩
  | drw x y n =>
    obtain ⟨t, ht, ⟨f, info, rfl⟩ | rfl⟩ := exec_drw_cases x y n s
    · exact ⟨_, ht, .fault f info⟩
    · exact ⟨_, ht, .draw x y n rfl⟩
  | ldKey x =>
    cases hk : s.lowestPressed with
    | some k => exact ⟨_, exec_ldKey_of_pressed x hk, .setReg _ rfl⟩
    | none => exact ⟨_, exec_ldKey_of_released x hk, .goto s.pc fun hpc => by omega⟩
  | ldDt x => exact ⟨_, rfl, .timers (s.reg x) s.sound⟩
  | ldSt x => exact ⟨_, rfl, .timers s.delay (s.reg x)⟩
  | ldBcd x => exact ⟨_, rfl, .storeBytes x _ rfl (.inl ⟨rfl, rfl⟩)⟩
  | storeRegs x => exact ⟨_, rfl, .storeBytes x _ (s.length_regsUpTo x) (.inr ⟨rfl, rfl⟩)⟩
  | loadRegs x =>
    refine ⟨_, rfl, .withRange fun _ => .regs _ fun hv => .inr ?_⟩
    change (x == VF) = true
    have hx : VF ≤ x := by
      by_contra hx
      exact hv ((s.reg_loadUpTo x VF).trans (if_neg hx))
    rw [beq_iff_eq]
    exact le_antisymm (Fin.le_last x) hx

/-- What a step can do: nothing in the faulted state (R127), a fault of the fetch (R121), the operation of an
instruction, or that of the unknown instruction (R124). -/
theorem step_cases {s t : State} (h : step s = .next t) :
    (s.latch.fault = true ∧ t = s) ∨
    (s.latch.fault = false ∧ 0x0FFE < s.pc.toNat ∧
      t = s.raise .memRange (BitVec.ofNat 16 (max s.pc.toNat 4096))) ∨
    (∃ i o, Runs s i ∧ exec i s = .next o ∧ Effect s i o ∧ t = o.settle) ∨
    (∃ w, Ready s ∧ decodeWord s.fetchWord = .unknown w ∧ t = (s.setPc (s.pc + 2)).settle) := by
  cases hf : s.latch.fault with
  | true => exact .inl ⟨rfl, Host.Outcome.next.inj (h.symm.trans (step_of_latched hf))⟩
  | false =>
    by_cases hpc : s.pc.toNat ≤ 0x0FFE
    · cases hd : decodeWord s.fetchWord with
      | instr i =>
        obtain ⟨o, ho, he⟩ := exec_effect i s
        have hr : Runs s i := ⟨⟨hf, hpc⟩, hd⟩
        exact .inr (.inr (.inl ⟨i, o, hr, ho, he, Host.Outcome.next.inj (h.symm.trans (step_of_runs hr ho))⟩))
      | unknown w =>
        have hs : Ready s := ⟨hf, hpc⟩
        exact .inr (.inr (.inr ⟨w, hs, rfl, Host.Outcome.next.inj (h.symm.trans (step_of_unknown hs hd))⟩))
    · have hpc := Nat.lt_of_not_le hpc
      exact .inr (.inl ⟨rfl, hpc, Host.Outcome.next.inj (h.symm.trans (step_of_fetch_out_of_range hf hpc))⟩)

/-! ## The invariant (R39) -/

theorem State.Inv.latch_eq_clear {s : State} (h : s.Inv) (hf : s.latch.fault = false) : s.latch = FaultLatch.clear := by
  obtain hc | ⟨ht, -⟩ := h.latch
  · exact hc
  · rw [hf] at ht; cases ht

theorem State.Inv.raise {s : State} (h : s.Inv) (f : Fault) (info : Word) : (s.raise f info).Inv :=
  ⟨h.memory, h.stack, .inr ⟨rfl, ⟨f, rfl⟩, rfl⟩, h.pc⟩

theorem State.Inv.setPc {s : State} (h : s.Inv) (hf : s.latch.fault = false) {w : Word} (hw : w.toNat ≤ 0x10FE) :
    (s.setPc w).Inv :=
  ⟨h.memory, h.stack, .inl (h.latch_eq_clear hf), hw⟩

theorem State.Inv.settle {s : State} (h : s.Inv) : s.settle.Inv := by
  obtain ⟨a, b, heq⟩ := s.settle_eq
  rw [heq]
  exact ⟨h.memory, h.stack, h.latch, h.pc⟩

/-- `CALL` holds one more return address, its own (R141). -/
theorem State.stackConsistent_call {s : State} (h : s.stackConsistent) (hpc : s.pc.toNat ≤ 0x0FFE)
    (hsp : s.sp.val < 16) (w : Word) :
    (((s.setStack (s.stack.set s.sp.val s.pc)).setSp ⟨s.sp.val + 1, by omega⟩).setPc w).stackConsistent := by
  intro k hk
  change (s.stack.set s.sp.val s.pc)[k.val].toNat ≤ 0x0FFE
  rw [Vector.getElem_set]
  split
  · exact hpc
  · exact h k (by change k.val < s.sp.val + 1 at hk; omega)

/-- Every form of an instruction's result keeps the invariant. -/
theorem Effect.inv {s o : State} {i : Instr} (he : Effect s i o) (h : s.Inv) (hs : Ready s) : o.Inv := by
  have hclear := h.latch_eq_clear hs.1
  have hnext := toNat_add_le (k := 2) hs.2 (by decide)
  cases he with
  | fault f info => exact h.raise f info
  | goto w hw => exact h.setPc hs.1 (hw hs.2)
  | call nnn _ hsp =>
    refine ⟨h.memory, s.stackConsistent_call h.stack hs.2 hsp _, .inl hclear, ?_⟩
    have := nnn.isLt
    rw [State.setPc_pc, toNat_addrWord]
    omega
  | ret _ hsp =>
    have hlt := s.sp.isLt
    have hret := h.stack ⟨s.sp.val - 1, by omega⟩ (by change s.sp.val - 1 < _; omega)
    exact ⟨h.memory, fun k hk => h.stack k (by change k.val < s.sp.val - 1 at hk; omega), .inl hclear,
      toNat_add_le hret (by decide)⟩
  | store x bs _ hfit => exact ⟨Memory.wf_setBytes bs _ hfit h.memory, h.stack, .inl hclear, hnext⟩
  | regs | rnd | index | timers | cls | draw => exact ⟨h.memory, h.stack, .inl hclear, hnext⟩

theorem State.Inv.step {s t : State} (h : s.Inv) (ht : step s = .next t) : t.Inv := by
  obtain ⟨-, rfl⟩ | ⟨-, -, rfl⟩ | ⟨i, o, hr, -, he, rfl⟩ | ⟨w, hs, -, rfl⟩ := step_cases ht
  · exact h
  · exact h.raise ..
  · exact (he.inv h hr.1).settle
  · exact (h.setPc hs.1 (toNat_add_le (k := 2) hs.2 (by decide))).settle

theorem State.reset_inv : State.reset.Inv where
  memory := Memory.wf_empty
  stack := fun k hk => absurd hk (Nat.not_lt_zero k.val)
  latch := .inl rfl
  pc := by decide

theorem State.Inv.hostReset (s : State) : s.hostReset.Inv :=
  have h := State.reset_inv
  ⟨h.memory, h.stack, h.latch, h.pc⟩

theorem State.Inv.loadProgram {s t : State} (h : s.Inv) {image : List Byte} (ht : s.loadProgram image = .ok t) :
    t.Inv := by
  unfold State.loadProgram at ht
  split at ht
  · rename_i hwf
    have hlen := (imageWellFormed_iff image).mp hwf
    cases ht
    exact ⟨Memory.wf_setBytes image _ (by simp only [progBase, memSize]; omega) h.memory, h.stack, h.latch, h.pc⟩
  · cases ht

/-- The state part of `cycle` is `step`. -/
theorem step_of_cycle {s t : State} {r : StepReport} (h : cycle s = .next (t, r)) : step s = .next t := by
  simp [Machine.step, h]

theorem State.Inv.transact {q : Transaction} {s t : State} {a : Response} (h : s.Inv)
    (ht : transact q s = .next (t, a)) : t.Inv := by
  cases q with
  | reset => cases ht; exact .hostReset s
  | loadProgram image =>
    cases hl : s.loadProgram image with
    | ok u => simp only [Machine.transact, hl] at ht; cases ht; exact h.loadProgram hl
    | error e => simp only [Machine.transact, hl] at ht; cases ht; exact h
  | step =>
    cases hc : cycle s with
    | next p => simp only [Machine.transact, hc] at ht; cases ht; exact h.step (step_of_cycle hc)
    | fault f => simp only [Machine.transact, hc] at ht; cases ht
    | refused r => simp only [Machine.transact, hc] at ht; cases ht
  | setKey | ackRepaint => cases ht; exact ⟨h.memory, h.stack, h.latch, h.pc⟩
  | readDisplay | readFault => cases ht; exact h

/-! ## What a step leaves unchanged -/

/-- An observation that sees neither `pc` nor the latch nor the timers, so no part of a step but an instruction's own
writes. -/
structure BlindToBookkeeping {α : Type} (f : State → α) : Prop where
  pc : ∀ s w, f (s.setPc w) = f s := by intros; rfl
  latch : ∀ s l, f (s.setLatch l) = f s := by intros; rfl
  delay : ∀ s b, f (s.setDelay b) = f s := by intros; rfl
  sound : ∀ s b, f (s.setSound b) = f s := by intros; rfl

theorem BlindToBookkeeping.settle {α : Type} {f : State → α} (hf : BlindToBookkeeping f) (s : State) :
    f s.settle = f s := by
  obtain ⟨a, b, heq⟩ := s.settle_eq
  rw [heq, hf.sound, hf.delay]

/-- If a step changes such an observation, the instruction it ran did. -/
theorem BlindToBookkeeping.changed_by_exec {α : Type} {f : State → α} (hf : BlindToBookkeeping f) {s t : State}
    (h : step s = .next t) (hne : f t ≠ f s) : ∃ i o, Runs s i ∧ Effect s i o ∧ f t = f o := by
  obtain ⟨-, rfl⟩ | ⟨-, -, rfl⟩ | ⟨i, o, hr, -, he, rfl⟩ | ⟨w, -, -, rfl⟩ := step_cases h
  · exact absurd rfl hne
  · exact absurd (hf.latch ..) hne
  · exact ⟨i, o, hr, he, hf.settle o⟩
  · exact absurd ((hf.settle _).trans (hf.pc ..)) hne

/-! ### The flag register (R22) -/

theorem flagByte_eq_zero_or_one (b : Bool) : flagByte b = 0x00 ∨ flagByte b = 0x01 := by cases b <;> decide

theorem State.writeResultAndFlag_reg_VF (s : State) (x : RegIdx) (b : Byte) (flag : Bool) :
    (s.writeResultAndFlag x b flag).reg VF = flagByte flag := by simp

theorem State.draw_reg_VF (s : State) (cx cy : Byte) (n : Nat) :
    (s.draw cx cy n).reg VF = flagByte (drawSprite s.display cx.toNat cy.toNat (s.mem.bytes s.dataBase n)).2 := by
  simp [State.draw_eq]

/-- A flag-writing instruction that does not fault leaves a flag bit in `V[15]`. -/
theorem exec_flag {i : Instr} {s t : State} (hi : writesFlag i = true) (h : exec i s = .next t)
    (hok : t.latch.fault = false) : ∃ b, t.reg VF = flagByte b := by
  cases i with
  | addReg | sub | shr | subn | shl => cases h; exact ⟨_, State.writeResultAndFlag_reg_VF ..⟩
  | drw x y n =>
    obtain ⟨u, hu, hform⟩ := exec_drw_cases x y n s
    cases h.symm.trans hu
    obtain ⟨f, info, rfl⟩ | rfl := hform
    · cases hok
    · exact ⟨_, State.draw_reg_VF ..⟩
  | _ => cases hi

theorem State.settle_reg (t : State) (r : RegIdx) : t.settle.reg r = t.reg r := by
  obtain ⟨a, b, heq⟩ := t.settle_eq
  rw [heq]; rfl

theorem State.settle_latch (t : State) : t.settle.latch = t.latch := by
  obtain ⟨a, b, heq⟩ := t.settle_eq
  rw [heq]; rfl

/-! ## The display is not read but by `DRW` (R28, R193) -/

/-- `u` is `t` with another display, and other registers where `p` allows. -/
def DisplayTwin (p : RegIdx → Prop) (t u : State) : Prop :=
  ∃ d v, u = (t.setDisplay d).setRegs v ∧ ∀ r : RegIdx, v[r] = t.reg r ∨ p r

theorem DisplayTwin.of_setDisplay {p : RegIdx → Prop} (t : State) (d : Display) : DisplayTwin p t (t.setDisplay d) :=
  ⟨d, t.v, rfl, fun _ => .inl rfl⟩

theorem DisplayTwin.mono {p q : RegIdx → Prop} {t u : State} (h : DisplayTwin p t u) (hpq : ∀ r, p r → q r) :
    DisplayTwin q t u := by
  obtain ⟨d, v, rfl, hv⟩ := h
  exact ⟨d, v, rfl, fun r => (hv r).imp_right (hpq r)⟩

theorem State.settle_setDisplay_setRegs (t : State) (d : Display) (v : Vector Byte 16) :
    ((t.setDisplay d).setRegs v).settle = (t.settle.setDisplay d).setRegs v := by
  unfold State.settle
  by_cases hf : t.latch.fault = true
  · rw [if_pos hf, if_pos (show ((t.setDisplay d).setRegs v).latch.fault = true from hf)]
  · rw [if_neg hf, if_neg (show ¬ ((t.setDisplay d).setRegs v).latch.fault = true from hf)]
    rfl

theorem DisplayTwin.settle {p : RegIdx → Prop} {t u : State} (h : DisplayTwin p t u) :
    DisplayTwin p t.settle u.settle := by
  obtain ⟨d, v, rfl, hv⟩ := h
  exact ⟨d, v, t.settle_setDisplay_setRegs d v, fun r => by rw [State.settle_reg]; exact hv r⟩

theorem DisplayTwin.withRange {p : RegIdx → Prop} {s s' next next' : State} {base len : Nat} (hs : DisplayTwin p s s')
    (h : DisplayTwin p next next') : DisplayTwin p (s.withRange base len next) (s'.withRange base len next') := by
  unfold State.withRange
  split
  · obtain ⟨d, v, rfl, hv⟩ := hs
    exact ⟨d, v, rfl, hv⟩
  · exact h

theorem DisplayTwin.push {p : RegIdx → Prop} (s : State) (d : Display) (w : Word) :
    DisplayTwin p (s.push w) ((s.setDisplay d).push w) := by
  by_cases h : s.sp.val < 16
  · rw [s.push_of_lt w h, (s.setDisplay d).push_of_lt w h]
    exact .of_setDisplay _ d
  · have h : s.sp.val = 16 := by omega
    rw [s.push_of_full w h, (s.setDisplay d).push_of_full w h]
    exact .of_setDisplay _ d

theorem DisplayTwin.pop {p : RegIdx → Prop} (s : State) (d : Display) :
    DisplayTwin p s.pop (s.setDisplay d).pop := by
  by_cases h : s.sp.val = 0
  · rw [s.pop_of_empty h, (s.setDisplay d).pop_of_empty h]
    exact .of_setDisplay _ d
  · rw [s.pop_of_pos h, (s.setDisplay d).pop_of_pos h]
    exact .of_setDisplay _ d

theorem DisplayTwin.skipIfKey {p : RegIdx → Prop} (s : State) (d : Display) (b : Byte) (level : Bool) :
    DisplayTwin p (s.skipIfKey b level) ((s.setDisplay d).skipIfKey b level) := by
  unfold State.skipIfKey
  split <;> exact .of_setDisplay _ d

/-- A draw on another display can leave another collision flag, and nothing else that a program sees (R191). -/
theorem DisplayTwin.draw {p : RegIdx → Prop} (hp : p VF) (s : State) (d : Display) (cx cy : Byte) (n : Nat) :
    DisplayTwin p (s.draw cx cy n) ((s.setDisplay d).draw cx cy n) := by
  refine ⟨((s.setDisplay d).draw cx cy n).display, ((s.setDisplay d).draw cx cy n).v, rfl, fun r => ?_⟩
  by_cases hr : r = VF
  · exact .inr (hr ▸ hp)
  · refine .inl ?_
    change ((s.setDisplay d).draw cx cy n).reg r = (s.draw cx cy n).reg r
    simp [State.draw_eq, State.setReg_reg_of_ne _ _ hr]

/-- An instruction run on another display does the same; only `DRW` can leave another `V[15]`. -/
theorem exec_setDisplay {i : Instr} {s t : State} (h : exec i s = .next t) (d : Display) :
    ∃ u, exec i (s.setDisplay d) = .next u ∧ DisplayTwin (fun r => r = VF ∧ ∃ x y n, i = .drw x y n) t u := by
  cases i with
  | cls => exact ⟨t, h, .of_setDisplay t t.display⟩
  | ret => cases h; exact ⟨_, rfl, .pop s d⟩
  | call => cases h; exact ⟨_, rfl, .push s d _⟩
  | skp | sknp => cases h; exact ⟨_, rfl, .skipIfKey s d ..⟩
  | drw x y n =>
    cases h
    refine ⟨_, rfl, .withRange (.of_setDisplay s d) ?_⟩
    change DisplayTwin _ _
      (if offDisplay (s.reg x).toNat (s.reg y).toNat n.val then
        (s.setDisplay d).raise .displayRange (s.reg y ++ s.reg x)
      else (s.setDisplay d).draw (s.reg x) (s.reg y) n.val)
    split
    · exact .of_setDisplay _ d
    · exact .draw ⟨rfl, x, y, n, rfl⟩ s d ..
  | ldKey x =>
    cases hk : s.lowestPressed with
    | some k =>
      cases h.symm.trans (exec_ldKey_of_pressed x hk)
      exact ⟨_, exec_ldKey_of_pressed (s := s.setDisplay d) x hk, .of_setDisplay _ d⟩
    | none =>
      cases h.symm.trans (exec_ldKey_of_released x hk)
      exact ⟨_, exec_ldKey_of_released (s := s.setDisplay d) x hk, .of_setDisplay _ d⟩
  | ldBcd | storeRegs | loadRegs =>
    cases h
    exact ⟨_, rfl, .withRange (.of_setDisplay s d) (.of_setDisplay _ d)⟩
  | _ => cases h; exact ⟨_, rfl, .of_setDisplay _ d⟩

/-- So does a whole step. -/
theorem step_setDisplay {s t : State} (h : step s = .next t) (d : Display) :
    ∃ u, step (s.setDisplay d) = .next u ∧ DisplayTwin (fun r => r = VF ∧ ∃ x y n, Runs s (.drw x y n)) t u := by
  obtain ⟨hf, rfl⟩ | ⟨hf, hpc, rfl⟩ | ⟨i, o, hr, ho, -, rfl⟩ | ⟨w, hs, hw, rfl⟩ := step_cases h
  · exact ⟨_, step_of_latched (s := t.setDisplay d) hf, .of_setDisplay t d⟩
  · exact ⟨_, step_of_fetch_out_of_range (s := s.setDisplay d) hf hpc, .of_setDisplay _ d⟩
  · obtain ⟨u, hu, htwin⟩ := exec_setDisplay ho d
    refine ⟨_, step_of_runs (s := s.setDisplay d) hr hu, htwin.settle.mono fun r hp => ?_⟩
    obtain ⟨hVF, x, y, n, rfl⟩ := hp
    exact ⟨hVF, x, y, n, hr⟩
  · exact ⟨_, step_of_unknown (s := s.setDisplay d) hs hw, (DisplayTwin.of_setDisplay _ d).settle⟩

end Sys2Proof.Machine

namespace Sys2Proof.Proofs

open Sys2Proof.Machine Sys2Proof.Claims

/-- Settles O23: `step_cases` and the forms of `Effect`, each of which keeps the invariant. -/
theorem stepKeepsTheInvariant : Obligations.StepKeepsTheInvariant := fun _ _ h ht => h.step ht

/-- Settles O24: the step by O23, the other transactions field by field. -/
theorem transactionsKeepTheInvariant : Obligations.TransactionsKeepTheInvariant := fun _ _ _ _ h ht => h.transact ht

/-- Settles O22. -/
theorem resetSatisfiesTheInvariant : Obligations.ResetSatisfiesTheInvariant := State.reset_inv

/-- Settles O18: of the forms of `Effect` only `index` changes `I`. -/
theorem onlyThreeInstructionsWriteI : Obligations.OnlyThreeInstructionsWriteI := by
  intro s t h hne
  have hblind : BlindToBookkeeping State.i := {}
  obtain ⟨i, o, hr, he, heq⟩ := hblind.changed_by_exec h hne
  cases he with
  | index w hi =>
    obtain ⟨nnn, rfl⟩ | ⟨x, rfl⟩ | ⟨x, rfl⟩ := hi
    · exact .inl ⟨nnn, hr⟩
    · exact .inr (.inl ⟨x, hr⟩)
    · exact .inr (.inr ⟨x, hr⟩)
  | _ => exact absurd heq hne

/-- Settles O16: of the forms of `Effect` only `cls` and `draw` change a cell or the repaint flag. -/
theorem onlyClsAndDrwWriteTheDisplay : Obligations.OnlyClsAndDrwWriteTheDisplay := by
  intro s t h hchange
  have hblind : BlindToBookkeeping fun s : State => (s.display, s.drawFlag) := {}
  have hne : (t.display, t.drawFlag) ≠ (s.display, s.drawFlag) := by
    intro heq
    obtain ⟨hd, hf⟩ := Prod.mk.inj heq
    obtain ⟨k, hk⟩ | hk := hchange
    · exact hk (by rw [hd])
    · exact hk hf
  obtain ⟨i, o, hr, he, heq⟩ := hblind.changed_by_exec h hne
  cases he with
  | cls hi => exact .inl (hi ▸ hr)
  | draw x y n hi => exact .inr ⟨x, y, n, hi ▸ hr⟩
  | _ => exact absurd heq hne

/-- Settles O17: of the forms of `Effect` only `call` changes a slot, and only `call` and `ret` change `sp`. -/
theorem onlyCallAndRetUseTheStack : Obligations.OnlyCallAndRetUseTheStack := by
  intro s t h
  constructor
  · intro k hne
    have hblind : BlindToBookkeeping fun s : State => s.stack[k] := {}
    obtain ⟨i, o, hr, he, heq⟩ := hblind.changed_by_exec h hne
    cases he with
    | call nnn hi hsp =>
      refine ⟨?_, nnn, hi ▸ hr⟩
      by_contra hk
      exact hne (heq.trans (Vector.getElem_set_ne hsp k.isLt (Ne.symm hk)))
    | _ => exact absurd heq hne
  · intro hne
    have hblind : BlindToBookkeeping State.sp := {}
    obtain ⟨i, o, hr, he, heq⟩ := hblind.changed_by_exec h hne
    cases he with
    | call nnn hi hsp => exact .inl ⟨congrArg Fin.val heq, nnn, hi ▸ hr⟩
    | ret hi hsp =>
      have hval : t.sp.val = s.sp.val - 1 := congrArg Fin.val heq
      exact .inr ⟨by omega, hi ▸ hr⟩
    | _ => exact absurd heq hne

/-- Settles O19: of the forms of `Effect` only `regs`, `rnd` and `draw` change a register, and `exec_flag` gives the
value. -/
theorem flagRegisterIsWrittenOnlyByItsWriters : Obligations.FlagRegisterIsWrittenOnlyByItsWriters := by
  intro s t h
  constructor
  · intro hne
    have hblind : BlindToBookkeeping fun s : State => s.reg VF := {}
    obtain ⟨i, o, hr, he, heq⟩ := hblind.changed_by_exec h hne
    cases he with
    | regs v hv => exact ⟨i, hr, hv fun hsame => hne (heq.trans hsame)⟩
    | draw x y n hi => exact ⟨i, hr, .inl (hi ▸ rfl)⟩
    | rnd x nn hi =>
      refine ⟨i, hr, .inr ?_⟩
      subst hi
      by_contra hx
      exact hne (heq.trans (s.setReg_reg_of_ne _ (by rintro rfl; exact hx rfl)))
    | _ => exact absurd heq hne
  · intro i hr hi hok
    obtain ⟨o, ho, -⟩ := exec_effect i s
    cases h.symm.trans (step_of_runs hr ho)
    rw [State.settle_latch] at hok
    obtain ⟨b, hb⟩ := exec_flag hi ho hok
    rw [State.settle_reg, hb]
    exact flagByte_eq_zero_or_one b

/-- Settles O21: `step_setDisplay`, which follows two runs through one step. -/
theorem displayIsSeenOnlyThroughTheCollisionFlag : Obligations.DisplayIsSeenOnlyThroughTheCollisionFlag := by
  intro s t u d ht hu
  obtain ⟨u', hu', e, v, rfl, hv⟩ := step_setDisplay ht d
  cases hu.symm.trans hu'
  exact ⟨rfl, hv⟩

end Sys2Proof.Proofs

/-! Proofs about main memory (20_memory.md). What the two storing instructions write, byte by byte, is said once:
`get_of_exec_storing` gives every byte of memory after either. -/

namespace Sys2Proof.Machine

open Sys2Proof.Claims

/-! ## The fetched word (R62) -/

/-- Two bytes put together, the first one high (R62, R91). -/
theorem toNat_append_byte (hi lo : Byte) : (hi ++ lo).toNat = hi.toNat * 256 + lo.toNat := by
  rw [BitVec.toNat_append, ← Nat.shiftLeft_add_eq_or_of_lt lo.isLt, Nat.shiftLeft_eq]

theorem fetchWord_of_mem_eq {s t : State} (h : s.mem = t.mem) :
    s.fetchWord = t.mem.get s.pc.toNat ++ t.mem.get (s.pc.toNat + 1) := by
  rw [← h]; rfl

/-! ## Which bytes a run of writes changes -/

/-- A byte that a run of writes changes lies in the run. -/
theorem Memory.mem_run_of_get_setBytes_ne {m : Memory} {base a : Nat} {bs : List Byte}
    (h : (m.setBytes base bs).get a ≠ m.get a) : base ≤ a ∧ a < base + bs.length := by
  by_contra hout
  exact h (Memory.get_setBytes_outside bs m base a (by omega))

/-! ## What `LD B` and `LD [I], Vx` store (R210, R211) -/

theorem exec_ldBcd_of_fits {s : State} (x : RegIdx) (h : s.i.toNat + 2 ≤ 4095) :
    exec (.ldBcd x) s = .next (s.setMem (s.mem.setBytes s.i.toNat (bcdDigits (s.reg x)))).advance :=
  congrArg _ (s.withRange_of_fits _ (.inr (by simp only [State.dataBase]; omega)))

theorem exec_storeRegs_of_fits {s : State} (x : RegIdx) (h : s.i.toNat + x.val ≤ 4095) :
    exec (.storeRegs x) s = .next (s.setMem (s.mem.setBytes s.i.toNat (s.regsUpTo x))).advance :=
  congrArg _ (s.withRange_of_fits _ (.inr (by simp only [State.dataBase]; omega)))

theorem storedByte_ldBcd (s : State) (x : RegIdx) (a : Nat) :
    storedByte s (.ldBcd x) a = if s.i.toNat ≤ a then (bcdDigits (s.reg x))[a - s.i.toNat]? else none := by
  simp only [storedByte, bcdDigits]
  by_cases hle : s.i.toNat ≤ a
  · obtain ⟨k, rfl⟩ := Nat.exists_eq_add_of_le hle
    match k with
    | 0 | 1 | 2 => simp
    | k + 3 => simp
  · simp [hle, show a ≠ s.i.toNat by omega, show a ≠ s.i.toNat + 1 by omega, show a ≠ s.i.toNat + 2 by omega]

theorem storedByte_storeRegs (s : State) (x : RegIdx) (a : Nat) :
    storedByte s (.storeRegs x) a = if s.i.toNat ≤ a then (s.regsUpTo x)[a - s.i.toNat]? else none := by
  simp only [storedByte, State.regsUpTo, List.getElem?_take]
  by_cases hle : s.i.toNat ≤ a
  · by_cases hx : a ≤ s.i.toNat + x.val
    · simp [hle, hx, show a - s.i.toNat < x.val + 1 by omega]
    · simp [hx, show ¬ a - s.i.toNat < x.val + 1 by omega]
  · simp [hle]

/-- Bytes stored from `base` on are read back, and the old byte elsewhere. -/
theorem Memory.get_setBytes_eq_getD (bs : List Byte) (m : Memory) (base a : Nat) :
    (m.setBytes base bs).get a = (if base ≤ a then bs[a - base]? else none).getD (m.get a) := by
  rw [Memory.get_setBytes]
  split
  · exact List.getD_eq_getElem?_getD
  · rfl

/-- Every byte of memory after a store in range: the stored byte, or the old one (R65, R72). -/
theorem get_of_exec_storing {s t : State} {i : Instr} {x : RegIdx}
    (hi : (i = .ldBcd x ∧ s.i.toNat + 2 ≤ 4095) ∨ (i = .storeRegs x ∧ s.i.toNat + x.val ≤ 4095))
    (h : exec i s = .next t) (a : Nat) : t.mem.get a = (storedByte s i a).getD (s.mem.get a) := by
  obtain ⟨rfl, hfit⟩ | ⟨rfl, hfit⟩ := hi
  · cases h.symm.trans (exec_ldBcd_of_fits x hfit)
    rw [storedByte_ldBcd]
    exact Memory.get_setBytes_eq_getD ..
  · cases h.symm.trans (exec_storeRegs_of_fits x hfit)
    rw [storedByte_storeRegs]
    exact Memory.get_setBytes_eq_getD ..

end Sys2Proof.Machine

namespace Sys2Proof.Proofs

open Sys2Proof.Machine Sys2Proof.Claims

/-- Settles O15: of the forms of `Effect` only `store` changes memory, and only in the run of bytes it writes. -/
theorem onlyBcdAndDumpWriteMemory : Obligations.OnlyBcdAndDumpWriteMemory := by
  intro s t a h hne
  have hblind : BlindToBookkeeping fun s : State => s.mem.get a := {}
  obtain ⟨i, o, hr, he, heq⟩ := hblind.changed_by_exec h hne
  cases he with
  | store x bs hi hfit =>
    have hrun := Memory.mem_run_of_get_setBytes_ne fun hsame => hne (heq.trans hsame)
    simp only [State.dataBase, memSize] at hrun hfit
    obtain ⟨rfl, hlen⟩ | ⟨rfl, hlen⟩ := hi
    · exact ⟨x, .inl ⟨hr, by omega⟩⟩
    · exact ⟨x, .inr ⟨hr, by omega⟩⟩
  | _ => exact absurd heq hne

/-- Settles O56: both bytes of the fetch by `get_of_exec_storing`. -/
theorem storedBytesAreFetchedAsCode : Obligations.StoredBytesAreFetchedAsCode := by
  intro x s t u i hi h hmem
  rw [fetchWord_of_mem_eq hmem, get_of_exec_storing hi h, get_of_exec_storing hi h]

/-- Settles O5: the value of two bytes put together, the first one high. -/
theorem fetchIsBigEndian : Obligations.FetchIsBigEndian := fun _ => toNat_append_byte ..

end Sys2Proof.Proofs

/-! Proofs about decoding and encoding (30_encoding.md). The fields of a word are said once, in both directions: what
each format (R93) holds in its fields, and the word put together again from its fields. From the first comes
`decodeWord_encode`; from the second `decodeWord_standsFor` (what the decoder can answer) and `decodeWord_of_selected`
(what a row of the opcode table says of a word). -/

namespace Sys2Proof

/-! ## Register fields (R94) -/

@[simp] theorem toNat_bitsOfReg (r : Fin 16) : (bitsOfReg r).toNat = r.val := Nat.mod_eq_of_lt r.isLt

@[simp] theorem regOfBits_bitsOfReg (r : Fin 16) : regOfBits (bitsOfReg r) = r := Fin.ext (toNat_bitsOfReg r)

@[simp] theorem bitsOfReg_regOfBits (b : BitVec 4) : bitsOfReg (regOfBits b) = b := by
  simp [bitsOfReg, regOfBits]

/-! ## The fields of each format (R92, R93) -/

section
variable (op : BitVec 4) (x y : RegIdx) (n : BitVec 4) (nn : Byte) (nnn : Addr)

@[simp] theorem opField_wordNNN : opField (wordNNN op nnn) = op := BitVec.extractLsb'_append_eq_left

@[simp] theorem nnnField_wordNNN : nnnField (wordNNN op nnn) = nnn := BitVec.extractLsb'_append_eq_right

@[simp] theorem opField_wordXNN : opField (wordXNN op x nn) = op :=
  (BitVec.extractLsb'_append_eq_of_le (by decide)).trans BitVec.extractLsb'_append_eq_left

@[simp] theorem xField_wordXNN : xField (wordXNN op x nn) = x :=
  (congrArg regOfBits ((BitVec.extractLsb'_append_eq_of_le (by decide)).trans
    BitVec.extractLsb'_append_eq_right)).trans (regOfBits_bitsOfReg x)

@[simp] theorem nnField_wordXNN : nnField (wordXNN op x nn) = nn := BitVec.extractLsb'_append_eq_right

/-- The upper three nibbles of format XYN are read as those of the upper word. -/
theorem extractLsb'_wordXYN {start len : Nat} (h : 4 ≤ start) :
    (wordXYN op x y n).extractLsb' start len = (op ++ bitsOfReg x ++ bitsOfReg y).extractLsb' (start - 4) len :=
  BitVec.extractLsb'_append_eq_of_le h

@[simp] theorem opField_wordXYN : opField (wordXYN op x y n) = op :=
  (extractLsb'_wordXYN op x y n (by decide)).trans
    ((BitVec.extractLsb'_append_eq_of_le (by decide)).trans BitVec.extractLsb'_append_eq_left)

@[simp] theorem xField_wordXYN : xField (wordXYN op x y n) = x :=
  (congrArg regOfBits ((extractLsb'_wordXYN op x y n (by decide)).trans
    ((BitVec.extractLsb'_append_eq_of_le (by decide)).trans BitVec.extractLsb'_append_eq_right))).trans
    (regOfBits_bitsOfReg x)

@[simp] theorem yField_wordXYN : yField (wordXYN op x y n) = y :=
  (congrArg regOfBits ((extractLsb'_wordXYN op x y n (by decide)).trans
    BitVec.extractLsb'_append_eq_right)).trans (regOfBits_bitsOfReg y)

@[simp] theorem nField_wordXYN : nField (wordXYN op x y n) = regOfBits n :=
  congrArg regOfBits BitVec.extractLsb'_append_eq_right

end

/-! ## The word of an instruction decodes to it (R93, R108) -/

theorem decodeWord_encode (i : Instr) : decodeWord (encode i) = .instr i := by
  cases i with
  | cls | ret => rfl
  | jp | call | ldI | jpV0 | seImm | sneImm | ldImm | addImm | rnd | drw => simp [encode, decodeWord]
  | seReg | sneReg => simp [encode, decodeWord, decodeZeroNibble, regOfBits]
  | ldReg | orReg | andReg | xorReg | addReg | sub | shr | subn | shl =>
    simp [encode, decodeWord, decodeFamily8, regOfBits]
  | skp | sknp => simp [encode, decodeWord, decodeFamilyE]
  | ldFromDt | ldKey | ldDt | ldSt | addI | ldF | ldBcd | storeRegs | loadRegs =>
    simp [encode, decodeWord, decodeFamilyF]

/-! ## A word from its fields -/

theorem wordNNN_of_fields {w : Word} {op : BitVec 4} {nnn : Addr} (hop : (opField w).toNat = op.toNat)
    (hnnn : (nnnField w).toNat = nnn.toNat) : wordNNN op nnn = w := by
  rw [← BitVec.eq_of_toNat_eq hop, ← BitVec.eq_of_toNat_eq hnnn]
  exact (BitVec.extractLsb'_append_extractLsb'_eq_extractLsb' rfl).trans BitVec.extractLsb'_eq_self

theorem wordXNN_of_fields {w : Word} {op : BitVec 4} {nn : Byte} (hop : (opField w).toNat = op.toNat)
    (hnn : (nnField w).toNat = nn.toNat) : wordXNN op (xField w) nn = w := by
  rw [← BitVec.eq_of_toNat_eq hop, ← BitVec.eq_of_toNat_eq hnn, wordXNN, xField, bitsOfReg_regOfBits]
  unfold opField nnField
  rw [BitVec.extractLsb'_append_extractLsb'_eq_extractLsb' (start₁ := 8) (len₁ := 4) rfl]
  exact (BitVec.extractLsb'_append_extractLsb'_eq_extractLsb' rfl).trans BitVec.extractLsb'_eq_self

theorem wordXYN_of_fields {w : Word} {op n : BitVec 4} (hop : (opField w).toNat = op.toNat)
    (hn : (nField w).val = n.toNat) : wordXYN op (xField w) (yField w) n = w := by
  have hn' : w.extractLsb' 0 4 = n := BitVec.eq_of_toNat_eq hn
  rw [← BitVec.eq_of_toNat_eq hop, ← hn', wordXYN, xField, yField, bitsOfReg_regOfBits, bitsOfReg_regOfBits]
  unfold opField
  rw [BitVec.extractLsb'_append_extractLsb'_eq_extractLsb' (start₁ := 8) (len₁ := 4) rfl,
    BitVec.extractLsb'_append_extractLsb'_eq_extractLsb' (start₁ := 4) (len₁ := 4) rfl]
  exact (BitVec.extractLsb'_append_extractLsb'_eq_extractLsb' rfl).trans BitVec.extractLsb'_eq_self

/-! ## What the decoder can answer -/

/-- The decoder's two answers (R102): an instruction whose word this is, or the unknown instruction with the word. -/
def Decoded.StandsFor (w : Word) : Decoded → Prop
  | .instr i => encode i = w
  | .unknown u => u = w

section
variable {w : Word}

theorem decodeFamily0_standsFor (hop : (opField w).toNat = 0x0) : (decodeFamily0 w).StandsFor w := by
  unfold decodeFamily0
  split
  case h_1 h => exact wordNNN_of_fields (op := 0x0) (nnn := 0x0E0) hop h
  case h_2 h => exact wordNNN_of_fields (op := 0x0) (nnn := 0x0EE) hop h
  case h_3 => rfl

theorem decodeFamily8_standsFor (hop : (opField w).toNat = 0x8) : (decodeFamily8 w).StandsFor w := by
  unfold decodeFamily8
  split
  case h_1 hn | h_2 hn | h_3 hn | h_4 hn | h_5 hn | h_6 hn | h_7 hn | h_8 hn | h_9 hn => exact wordXYN_of_fields hop hn
  case h_10 => rfl

theorem decodeZeroNibble_standsFor {i : Instr} (hi : (nField w).val = 0x0 → encode i = w) :
    (decodeZeroNibble w i).StandsFor w := by
  unfold decodeZeroNibble
  split
  case h_1 hn => exact hi hn
  case h_2 => rfl

theorem decodeFamilyE_standsFor (hop : (opField w).toNat = 0xE) : (decodeFamilyE w).StandsFor w := by
  unfold decodeFamilyE
  split
  case h_1 hnn | h_2 hnn => exact wordXNN_of_fields hop hnn
  case h_3 => rfl

theorem decodeFamilyF_standsFor (hop : (opField w).toNat = 0xF) : (decodeFamilyF w).StandsFor w := by
  unfold decodeFamilyF
  split
  case h_1 hnn | h_2 hnn | h_3 hnn | h_4 hnn | h_5 hnn | h_6 hnn | h_7 hnn | h_8 hnn | h_9 hnn =>
    exact wordXNN_of_fields hop hnn
  case h_10 => rfl

end

theorem decodeWord_standsFor (w : Word) : (decodeWord w).StandsFor w := by
  unfold decodeWord
  split
  case h_1 hop => exact decodeFamily0_standsFor hop
  case h_2 hop | h_3 hop | h_11 hop | h_12 hop => exact wordNNN_of_fields hop rfl
  case h_4 hop | h_5 hop | h_7 hop | h_8 hop | h_13 hop => exact wordXNN_of_fields hop rfl
  case h_6 hop | h_10 hop => exact decodeZeroNibble_standsFor fun hn => wordXYN_of_fields hop hn
  case h_9 hop => exact decodeFamily8_standsFor hop
  case h_14 hop => exact wordXYN_of_fields hop (toNat_bitsOfReg _).symm
  case h_15 hop => exact decodeFamilyE_standsFor hop
  case h_16 =>
    have hlt := (opField w).isLt
    refine decodeFamilyF_standsFor ?_
    simp only [imp_false] at *
    omega

theorem encode_of_decodeWord {w : Word} {i : Instr} (h : decodeWord w = .instr i) : encode i = w := by
  have hw := decodeWord_standsFor w
  rwa [h] at hw

theorem eq_of_decodeWord_unknown {w u : Word} (h : decodeWord w = .unknown u) : u = w := by
  have hw := decodeWord_standsFor w
  rwa [h] at hw

/-! ## The rows of the opcode table (R108, R123) -/

/-- A field that the mask covers is read from the masked word. -/
theorem toNat_extractLsb'_of_masked {w m c : Word} {start len : Nat} {b : BitVec len} (h : w &&& m = c)
    (hm : m.extractLsb' start len = BitVec.allOnes len) (hc : c.extractLsb' start len = b) :
    (w.extractLsb' start len).toNat = b.toNat := by
  rw [← hc, ← h, BitVec.extractLsb'_and, hm, BitVec.and_allOnes]

/-! The converses of `Laws.wordNNN_fixed` and its kin: a word with a format's fixed bits is a word of that format. -/

section
variable {w : Word} {op : BitVec 4}

theorem toNat_opField_of_family (h : w &&& 0xF000 = op ++ 0#12) : (opField w).toNat = op.toNat :=
  toNat_extractLsb'_of_masked h (by decide) (opField_wordNNN op 0)

theorem wordNNN_of_fixed (h : w &&& 0xF000 = op ++ 0#12) : wordNNN op (nnnField w) = w :=
  wordNNN_of_fields (toNat_opField_of_family h) rfl

theorem wordXNN_of_family (h : w &&& 0xF000 = op ++ 0#12) : wordXNN op (xField w) (nnField w) = w :=
  wordXNN_of_fields (toNat_opField_of_family h) rfl

theorem wordXNN_of_fixed {nn : Byte} (h : w &&& 0xF0FF = op ++ 0#4 ++ nn) : wordXNN op (xField w) nn = w :=
  wordXNN_of_fields (toNat_extractLsb'_of_masked h (by decide) (opField_wordXNN op 0 nn))
    (toNat_extractLsb'_of_masked h (by decide) (nnField_wordXNN op 0 nn))

theorem wordXYN_of_fixed {n : BitVec 4} (h : w &&& 0xF00F = op ++ 0#4 ++ 0#4 ++ n) :
    wordXYN op (xField w) (yField w) n = w :=
  wordXYN_of_fields (toNat_extractLsb'_of_masked h (by decide) (opField_wordXYN op 0 0 n))
    (toNat_extractLsb'_of_masked h (by decide) BitVec.extractLsb'_append_eq_right)

theorem wordXYN_of_family (h : w &&& 0xF000 = op ++ 0#12) :
    wordXYN op (xField w) (yField w) (bitsOfReg (nField w)) = w :=
  wordXYN_of_fields (toNat_opField_of_family h) (toNat_bitsOfReg _).symm

end

section
open Sys2Proof.Claims

/-- Every word that the row selects is the word of an instruction with the row's mnemonic. -/
def OpcodeRow.Encoded (r : OpcodeRow) : Prop :=
  ∀ w : Word, w &&& r.mask = r.fixed → ∃ i, encode i = w ∧ mnemonicOf i = r.mnemonic

theorem families0to7_encoded : ∀ r ∈ tableFamilies0to7, r.Encoded := by
  intro r hr w h
  fin_cases hr
  · exact ⟨.cls, h.symm.trans BitVec.and_allOnes, rfl⟩
  · exact ⟨.ret, h.symm.trans BitVec.and_allOnes, rfl⟩
  · exact ⟨.jp _, wordNNN_of_fixed (h.trans (by decide)), rfl⟩
  · exact ⟨.call _, wordNNN_of_fixed (h.trans (by decide)), rfl⟩
  · exact ⟨.seImm _ _, wordXNN_of_family (h.trans (by decide)), rfl⟩
  · exact ⟨.sneImm _ _, wordXNN_of_family (h.trans (by decide)), rfl⟩
  · exact ⟨.seReg _ _, wordXYN_of_fixed (h.trans (by decide)), rfl⟩
  · exact ⟨.ldImm _ _, wordXNN_of_family (h.trans (by decide)), rfl⟩
  · exact ⟨.addImm _ _, wordXNN_of_family (h.trans (by decide)), rfl⟩

theorem family8_encoded : ∀ r ∈ tableFamily8, r.Encoded := by
  intro r hr w h
  fin_cases hr
  · exact ⟨.ldReg _ _, wordXYN_of_fixed (h.trans (by decide)), rfl⟩
  · exact ⟨.orReg _ _, wordXYN_of_fixed (h.trans (by decide)), rfl⟩
  · exact ⟨.andReg _ _, wordXYN_of_fixed (h.trans (by decide)), rfl⟩
  · exact ⟨.xorReg _ _, wordXYN_of_fixed (h.trans (by decide)), rfl⟩
  · exact ⟨.addReg _ _, wordXYN_of_fixed (h.trans (by decide)), rfl⟩
  · exact ⟨.sub _ _, wordXYN_of_fixed (h.trans (by decide)), rfl⟩
  · exact ⟨.shr _ _, wordXYN_of_fixed (h.trans (by decide)), rfl⟩
  · exact ⟨.subn _ _, wordXYN_of_fixed (h.trans (by decide)), rfl⟩
  · exact ⟨.shl _ _, wordXYN_of_fixed (h.trans (by decide)), rfl⟩

theorem families9toD_encoded : ∀ r ∈ tableFamilies9toD, r.Encoded := by
  intro r hr w h
  fin_cases hr
  · exact ⟨.sneReg _ _, wordXYN_of_fixed (h.trans (by decide)), rfl⟩
  · exact ⟨.ldI _, wordNNN_of_fixed (h.trans (by decide)), rfl⟩
  · exact ⟨.jpV0 _, wordNNN_of_fixed (h.trans (by decide)), rfl⟩
  · exact ⟨.rnd _ _, wordXNN_of_family (h.trans (by decide)), rfl⟩
  · exact ⟨.drw _ _ _, wordXYN_of_family (h.trans (by decide)), rfl⟩

theorem familiesEF_encoded : ∀ r ∈ tableFamiliesEF, r.Encoded := by
  intro r hr w h
  fin_cases hr
  · exact ⟨.skp _, wordXNN_of_fixed (h.trans (by decide)), rfl⟩
  · exact ⟨.sknp _, wordXNN_of_fixed (h.trans (by decide)), rfl⟩
  · exact ⟨.ldFromDt _, wordXNN_of_fixed (h.trans (by decide)), rfl⟩
  · exact ⟨.ldKey _, wordXNN_of_fixed (h.trans (by decide)), rfl⟩
  · exact ⟨.ldDt _, wordXNN_of_fixed (h.trans (by decide)), rfl⟩
  · exact ⟨.ldSt _, wordXNN_of_fixed (h.trans (by decide)), rfl⟩
  · exact ⟨.addI _, wordXNN_of_fixed (h.trans (by decide)), rfl⟩
  · exact ⟨.ldF _, wordXNN_of_fixed (h.trans (by decide)), rfl⟩
  · exact ⟨.ldBcd _, wordXNN_of_fixed (h.trans (by decide)), rfl⟩
  · exact ⟨.storeRegs _, wordXNN_of_fixed (h.trans (by decide)), rfl⟩
  · exact ⟨.loadRegs _, wordXNN_of_fixed (h.trans (by decide)), rfl⟩

/-- A word that a row selects decodes to an instruction with the row's mnemonic. -/
theorem decodeWord_of_selected {r : OpcodeRow} (hr : r ∈ opcodeTable) {w : Word} (h : w &&& r.mask = r.fixed) :
    ∃ i, decodeWord w = .instr i ∧ mnemonicOf i = r.mnemonic := by
  have hrow : r.Encoded := by
    simp only [opcodeTable, List.mem_append] at hr
    obtain ((hr | hr) | hr) | hr := hr
    · exact families0to7_encoded r hr
    · exact family8_encoded r hr
    · exact families9toD_encoded r hr
    · exact familiesEF_encoded r hr
  obtain ⟨i, rfl, hi⟩ := hrow w h
  exact ⟨i, decodeWord_encode i, hi⟩

section
open Laws.TableRow

/-- Every instruction's word has the fixed bits of the instruction's row. -/
theorem tableRow_statement : ∀ i : Instr, Statement i
  | .cls => cls | .ret => ret | .jp _ => jp _ | .call _ => call _ | .seImm .. => seImm .. | .sneImm .. => sneImm ..
  | .seReg .. => seReg .. | .ldImm .. => ldImm .. | .addImm .. => addImm .. | .ldReg .. => ldReg ..
  | .orReg .. => orReg .. | .andReg .. => andReg .. | .xorReg .. => xorReg .. | .addReg .. => addReg ..
  | .sub .. => sub .. | .shr .. => shr .. | .subn .. => subn .. | .shl .. => shl .. | .sneReg .. => sneReg ..
  | .ldI _ => ldI _ | .jpV0 _ => jpV0 _ | .rnd .. => rnd .. | .drw .. => drw .. | .skp _ => skp _
  | .sknp _ => sknp _ | .ldFromDt _ => ldFromDt _ | .ldKey _ => ldKey _ | .ldDt _ => ldDt _ | .ldSt _ => ldSt _
  | .addI _ => addI _ | .ldF _ => ldF _ | .ldBcd _ => ldBcd _ | .storeRegs _ => storeRegs _
  | .loadRegs _ => loadRegs _

end

theorem encode_selected (i : Instr) : ∃ r ∈ opcodeTable, encode i &&& r.mask = r.fixed := by
  obtain ⟨r, hr, h⟩ := tableRow_statement i
  exact ⟨r, List.mem_of_getElem? hr, h⟩

/-- A mnemonic names one row of the table. -/
theorem eq_of_mnemonic_eq {r q : OpcodeRow} (hr : r ∈ opcodeTable) (hq : q ∈ opcodeTable)
    (h : r.mnemonic = q.mnemonic) : r = q :=
  List.inj_on_of_nodup_map (f := OpcodeRow.mnemonic) (by decide) hr hq h

end

end Sys2Proof

namespace Sys2Proof.Machine

open Sys2Proof.Claims

/-! ## A word placed where the next step fetches (log 16) -/

theorem State.withFetchWord_of_fits {s : State} (nbits w : Nat) (h : s.pc.toNat ≤ 0x0FFE) :
    s.withFetchWord nbits w = s.setMem (s.mem.setBytes s.pc.toNat (tableWordBytes nbits w)) := by
  have hr : rangeFault s.pc.toNat (tableWordBytes nbits w).length = none :=
    (rangeFault_eq_none_iff _ _).mpr (.inr (show s.pc.toNat + 2 ≤ 4096 by omega))
  simp only [State.withFetchWord, State.withProgramBytes, hr]

/-- The two bytes of `tableWordBytes`, put together again (R91). -/
theorem append_bytes_of_word (w : Word) :
    (BitVec.ofNat 8 (w.toNat % 2 ^ 16 / 256) ++ BitVec.ofNat 8 (w.toNat % 2 ^ 16) : Word) = w := by
  refine BitVec.eq_of_toNat_eq ?_
  have hw := w.isLt
  rw [toNat_append_byte, BitVec.toNat_ofNat, BitVec.toNat_ofNat]
  omega

theorem State.fetchWord_withFetchWord {s : State} (w : Word) (h : s.pc.toNat ≤ 0x0FFE) :
    (s.withFetchWord 16 w.toNat).fetchWord = w := by
  rw [State.withFetchWord_of_fits 16 w.toNat h, fetchWord_of_mem_eq rfl]
  simpa [Memory.get_setBytes, tableWordBytes] using append_bytes_of_word w

theorem State.withFetchWord_changesOnly {s : State} (nbits w : Nat) (h : s.pc.toNat ≤ 0x0FFE) :
    ChangesOnly s (s.withFetchWord nbits w) fun e => e = .mem s.pc.toNat ∨ e = .mem (s.pc.toNat + 1) := by
  rw [State.withFetchWord_of_fits nbits w h]
  intro e he
  cases e with
  | mem a =>
    by_contra hne
    obtain ⟨hlo, hhi⟩ : s.pc.toNat ≤ a ∧ a < s.pc.toNat + 2 := Memory.mem_run_of_get_setBytes_ne hne
    obtain rfl | rfl : a = s.pc.toNat ∨ a = s.pc.toNat + 1 := by omega
    · exact he (.inl rfl)
    · exact he (.inr rfl)
  | _ => rfl

end Sys2Proof.Machine

namespace Sys2Proof.Proofs

open Sys2Proof.Machine Sys2Proof.Claims

/-- Settles O2: each format's field lemmas read the operands back from the word. -/
theorem decodeOfEncodeIsTheInstruction : Obligations.DecodeOfEncodeIsTheInstruction := decodeWord_encode

/-- Settles O4: a selecting row's mnemonic is the decoded instruction's, so two such rows share it and are one row; and
a word that decodes to an instruction is that instruction's word, which a row selects. -/
theorem decoderSelectsTheUniqueMatchingRow : Obligations.DecoderSelectsTheUniqueMatchingRow := by
  intro w
  refine ⟨fun r hr q hq hrw hqw => ?_, fun r hr h => decodeWord_of_selected hr h, fun hnone => ?_⟩
  · obtain ⟨i, hi, hri⟩ := decodeWord_of_selected hr hrw
    obtain ⟨j, hj, hqj⟩ := decodeWord_of_selected hq hqw
    cases hi.symm.trans hj
    exact eq_of_mnemonic_eq hr hq (hri.symm.trans hqj)
  · cases hd : decodeWord w with
    | unknown u => rw [eq_of_decodeWord_unknown hd]
    | instr i =>
      obtain ⟨r, hr, h⟩ := encode_selected i
      rw [encode_of_decodeWord hd] at h
      exact absurd h (hnone r hr)

/-- Settles O31: what `withFetchWord` fetches, and its frame. -/
theorem placedWordIsFetched : Obligations.PlacedWordIsFetched := fun _ w hpc =>
  ⟨State.fetchWord_withFetchWord w hpc, State.withFetchWord_changesOnly 16 w.toNat hpc⟩

end Sys2Proof.Proofs

/-! Proofs about the step cycle (40_step_cycle.md). `cycle` is said once in each of its cases, beside the cases of
`step` that stand with `step_cases`; what the operation phase does to the timers and to `pc` is said once over all
instructions, in `operation_timers` and `exec_pc`. -/

namespace Sys2Proof.Machine

open Sys2Proof.Claims

/-! ## The step and its outputs, case by case (R120, R126 to R128) -/

/-- There is no refusal: the selected operation answers a next state (R131). -/
theorem exists_operation (w : Word) (s : State) : ∃ o, operation w s = .next o := by
  cases hd : decodeWord w with
  | instr i =>
    obtain ⟨o, ho, -⟩ := exec_effect i s
    exact ⟨o, (operation_of_instr hd s).trans ho⟩
  | unknown u => exact ⟨_, operation_of_unknown hd s⟩

theorem exists_step (s : State) : ∃ t, step s = .next t := by
  cases hf : s.latch.fault with
  | true => exact ⟨s, step_of_latched hf⟩
  | false =>
    by_cases hpc : s.pc.toNat ≤ 0x0FFE
    · obtain ⟨o, ho⟩ := exists_operation s.fetchWord s
      exact ⟨_, step_of_ready ⟨hf, hpc⟩ ho⟩
    · exact ⟨_, step_of_fetch_out_of_range hf (Nat.lt_of_not_le hpc)⟩

/-- The state that `finish` leaves is `settle`'s; the report tells a fault from a completed step. -/
theorem finish_eq (t : State) (e : Option UnknownEvent) :
    finish t e = (t.settle, if t.latch.fault then t.faultReport else .completed t.drawFlag (t.sound == 1) e) := by
  unfold finish State.settle
  split <;> rfl

theorem cycle_of_latched {s : State} (hf : s.latch.fault = true) : cycle s = .next (s, s.faultReport) := by
  simp [cycle, hf]

theorem cycle_of_fetch_out_of_range {s : State} (hf : s.latch.fault = false) (hpc : 0x0FFE < s.pc.toNat) :
    cycle s = .next (s.raise .memRange (BitVec.ofNat 16 (max s.pc.toNat 4096)), .faulted 1 s.drawFlag) := by
  have hr := (rangeFault_eq_some_iff s.pc.toNat 2 _).mpr ⟨by omega, rfl⟩
  simp only [cycle, hf, hr]
  rfl

theorem cycle_of_ready {s o : State} (hs : Ready s) (ho : operation s.fetchWord s = .next o) :
    cycle s = .next (finish o (eventOf s.fetchWord s.pc)) := by
  obtain ⟨hf, hpc⟩ := hs
  have hr := (rangeFault_eq_none_iff s.pc.toNat 2).mpr (.inr (by omega))
  simp [cycle, hf, hr, ho]

theorem eventOf_of_instr {w : Word} {i : Instr} (h : decodeWord w = .instr i) (pc : Word) : eventOf w pc = none := by
  simp [eventOf, h]

theorem eventOf_of_not_instr {w : Word} (h : ∀ i, decodeWord w ≠ .instr i) (pc : Word) :
    eventOf w pc = some ⟨w, pc⟩ := by
  cases hd : decodeWord w with
  | instr i => exact absurd hd (h i)
  | unknown u => simp [eventOf, hd, eq_of_decodeWord_unknown hd]

/-! ## Faults (R128, R229) -/

/-- `raise` writes the latch and nothing else. -/
theorem State.raise_faultsWith (s : State) (f : Fault) (info : Word) :
    FaultsWith s (s.raise f info) f.code.toNat info.toNat := by
  refine ⟨rfl, rfl, rfl, rfl, fun e he => ?_⟩
  cases e with
  | latch => exact absurd rfl he
  | _ => rfl

/-- An instruction that faults leaves `pc`. -/
theorem Effect.pc_of_faulted {s o : State} {i : Instr} (he : Effect s i o) (hs : s.latch.fault = false)
    (hf : o.latch.fault = true) : o.pc = s.pc := by
  cases he with
  | fault => rfl
  | _ => exact absurd (hs.symm.trans hf) Bool.false_ne_true

/-- A range-checked access that does not fault is the access. -/
theorem State.withRange_of_completed {s next : State} {base len : Nat}
    (h : (s.withRange base len next).latch.fault = false) : s.withRange base len next = next := by
  obtain ⟨-, heq⟩ | ⟨-, heq⟩ := s.withRange_cases base len next
  · exact heq
  · rw [heq] at h; cases h

/-- A key skip that does not fault tests the flag of the key that `V[x]` names (R154, R155). -/
theorem State.skipIfKey_of_completed {s : State} {b : Byte} {level : Bool}
    (h : (s.skipIfKey b level).latch.fault = false) :
    s.skipIfKey b level = s.skipIf (s.keys.toList.getD b.toNat false == level) := by
  by_cases hb : b.toNat < 16
  · simp [State.skipIfKey, keyOf_of_lt b hb, hb]
  · simp [State.skipIfKey, keyOf_of_ge b (Nat.le_of_not_lt hb)] at h

/-! ## What the operation phase leaves in the timers (R200 to R202) -/

/-- `delay` and `sound`. -/
def State.timers (s : State) : Byte × Byte := (s.delay, s.sound)

/-- The timers before their update in the step: `LD DT` and `LD ST` write one each, nothing else writes any. -/
def timersLeft (s : State) : Decoded → Byte × Byte
  | .instr (.ldDt x) => (s.reg x, s.sound)
  | .instr (.ldSt x) => (s.delay, s.reg x)
  | _ => s.timers

theorem timersLeft_fst_of_ne {s : State} {d : Decoded} (h : ∀ x, d ≠ .instr (.ldDt x)) :
    (timersLeft s d).1 = s.delay := by
  unfold timersLeft
  split
  · exact absurd rfl (h _)
  · rfl
  · rfl

theorem timersLeft_snd_of_ne {s : State} {d : Decoded} (h : ∀ x, d ≠ .instr (.ldSt x)) :
    (timersLeft s d).2 = s.sound := by
  unfold timersLeft
  split
  · rfl
  · exact absurd rfl (h _)
  · rfl

theorem State.timers_withRange {s next : State} (base len : Nat) (h : next.timers = s.timers) :
    (s.withRange base len next).timers = s.timers := by
  obtain ⟨-, heq⟩ | ⟨-, heq⟩ := s.withRange_cases base len next <;> rw [heq]
  · exact h
  · rfl

theorem State.timers_push (s : State) (w : Word) : (s.push w).timers = s.timers := by
  by_cases h : s.sp.val < 16
  · rw [s.push_of_lt w h]; rfl
  · rw [s.push_of_full w (by omega)]; rfl

theorem State.timers_pop (s : State) : s.pop.timers = s.timers := by
  by_cases h : s.sp.val = 0
  · rw [s.pop_of_empty h]; rfl
  · rw [s.pop_of_pos h]; rfl

theorem State.timers_skipIfKey (s : State) (b : Byte) (level : Bool) : (s.skipIfKey b level).timers = s.timers := by
  unfold State.skipIfKey
  split <;> rfl

theorem exec_timers {i : Instr} {s o : State} (h : exec i s = .next o) : o.timers = timersLeft s (.instr i) := by
  cases i with
  | ret => cases h; exact s.timers_pop
  | call => cases h; exact s.timers_push _
  | skp | sknp => cases h; exact s.timers_skipIfKey ..
  | ldBcd | storeRegs | loadRegs => cases h; exact State.timers_withRange _ _ rfl
  | drw x y n =>
    obtain ⟨t, ht, ⟨f, info, rfl⟩ | rfl⟩ := exec_drw_cases x y n s <;> cases h.symm.trans ht <;> rfl
  | ldKey x =>
    cases hk : s.lowestPressed with
    | some k => cases h.symm.trans (exec_ldKey_of_pressed x hk); rfl
    | none => cases h.symm.trans (exec_ldKey_of_released x hk); rfl
  | _ => cases h; rfl

theorem operation_timers {w : Word} {s o : State} (h : operation w s = .next o) :
    o.timers = timersLeft s (decodeWord w) := by
  cases hd : decodeWord w with
  | instr i => exact exec_timers ((operation_of_instr hd s).symm.trans h)
  | unknown u => cases h.symm.trans (operation_of_unknown hd s); rfl

/-- A completed step ticks both timers (R125). -/
theorem State.settle_of_completed {t : State} (h : t.latch.fault = false) : t.settle = t.updateTimers := by
  simp [State.settle, h]

/-! ## What the operation phase leaves in `pc` (R130) -/

theorem State.settle_pc (t : State) : t.settle.pc = t.pc := by
  obtain ⟨a, b, heq⟩ := t.settle_eq
  rw [heq]; rfl

theorem pcTable_of_skipCondition {s : State} {i : Instr} {c : Bool} (h : skipCondition s i = some c) :
    pcTable s i = if c then s.pc.toNat + 4 else s.pc.toNat + 2 := by
  unfold pcTable
  split
  case h_6 => rw [h]; cases c <;> rfl
  all_goals cases h

/-- A skip goes where its row of the table says (R156). -/
theorem State.skipIf_pc {s : State} {i : Instr} {c : Bool} (h : skipCondition s i = some c) :
    (s.skipIf c).pc.toNat = pcTable s i % 65536 := by
  rw [pcTable_of_skipCondition h]
  cases c <;> exact BitVec.toNat_add ..

theorem State.true_mem_keys_iff (s : State) : true ∈ s.keys ↔ s.lowestPressed ≠ none := by
  rw [ne_eq, State.lowestPressed_eq_none_iff]
  constructor
  · intro hmem hall
    obtain ⟨k, hk, hkey⟩ := Vector.getElem_of_mem hmem
    exact Bool.false_ne_true ((hall ⟨k, hk⟩).symm.trans hkey)
  · intro hsome
    obtain ⟨k, hk⟩ := not_forall.mp hsome
    exact Vector.mem_of_getElem (Bool.eq_true_of_not_eq_false hk)

/-- `LD Vx, K` waits exactly while no key is pressed (R203). -/
theorem pcTable_ldKey (s : State) (x : RegIdx) :
    pcTable s (.ldKey x) = if s.lowestPressed = none then s.pc.toNat else s.pc.toNat + 2 := by
  simp [pcTable, State.true_mem_keys_iff]

theorem exec_pc {i : Instr} {s o : State} (h : exec i s = .next o) (hok : o.latch.fault = false) :
    o.pc.toNat = pcTable s i % 65536 := by
  cases i with
  | jp nnn => cases h; exact BitVec.toNat_setWidth ..
  | call nnn =>
    cases h
    by_cases hsp : s.sp.val < 16
    · rw [s.push_of_lt _ hsp]; exact BitVec.toNat_setWidth ..
    · rw [s.push_of_full _ (by omega)] at hok; cases hok
  | ret =>
    cases h
    by_cases hsp : s.sp.val = 0
    · rw [s.pop_of_empty hsp] at hok; cases hok
    · have hlt : s.sp.val - 1 < 16 := by omega
      rw [s.pop_of_pos hsp]
      simp [pcTable, hlt]
  | jpV0 nnn =>
    cases h
    simp [pcTable, toNat_addrWord, toNat_byteWord]
  | seImm | sneImm | seReg | sneReg => cases h; exact State.skipIf_pc rfl
  | skp | sknp =>
    cases h
    rw [State.skipIfKey_of_completed hok]
    exact State.skipIf_pc (by simp [skipCondition])
  | ldBcd | storeRegs | loadRegs =>
    cases h
    rw [State.withRange_of_completed hok]
    exact BitVec.toNat_add ..
  | drw x y n =>
    obtain ⟨t, ht, ⟨f, info, rfl⟩ | rfl⟩ := exec_drw_cases x y n s <;> cases h.symm.trans ht
    · cases hok
    · exact BitVec.toNat_add ..
  | ldKey x =>
    rw [pcTable_ldKey]
    cases hk : s.lowestPressed with
    | some k => cases h.symm.trans (exec_ldKey_of_pressed x hk); exact BitVec.toNat_add ..
    | none => cases h.symm.trans (exec_ldKey_of_released x hk); exact (Nat.mod_eq_of_lt s.pc.isLt).symm
  | _ => cases h; exact BitVec.toNat_add ..

/-! ## The keys and the repaint flag (R129) -/

theorem Effect.keys_eq {s o : State} {i : Instr} (he : Effect s i o) : o.keys = s.keys := by
  cases he <;> rfl

theorem Effect.drawFlag_eq_or {s o : State} {i : Instr} (he : Effect s i o) :
    o.drawFlag = s.drawFlag ∨ o.drawFlag = true := by
  cases he with
  | cls | draw => exact .inr rfl
  | _ => exact .inl rfl

end Sys2Proof.Machine

namespace Sys2Proof.Proofs

open Sys2Proof.Machine Sys2Proof.Claims

/-- Settles O11: the operation's state, by `operation_timers`, and what `finish` makes of it. -/
theorem completedStepTicksTimersAndReports : Obligations.CompletedStepTicksTimersAndReports := by
  intro s t r hs h hok
  obtain ⟨o, ho⟩ := exists_operation s.fetchWord s
  have hcycle := cycle_of_ready hs ho
  rw [finish_eq] at hcycle
  cases h.symm.trans hcycle
  rw [State.settle_latch] at hok
  obtain ⟨hdelay, hsound⟩ := Prod.mk.inj (operation_timers ho)
  rw [hok, State.settle_of_completed hok]
  refine ⟨o.delay, o.sound, fun x hx => ?_, fun hx => ?_, fun x hx => ?_, fun hx => ?_, toNat_tick _, toNat_tick _, rfl,
    rfl, ⟨_, _, _, rfl⟩, fun ⟨i, hi⟩ => eventOf_of_instr hi _, fun hi => eventOf_of_not_instr hi _⟩
  · exact hdelay.trans (congrArg (fun d => (timersLeft s d).1) hx)
  · exact hdelay.trans (timersLeft_fst_of_ne hx)
  · exact hsound.trans (congrArg (fun d => (timersLeft s d).2) hx)
  · exact hsound.trans (timersLeft_snd_of_ne hx)

/-- Settles O13: `exec_pc` for an instruction that completes, the forms of `Effect` for one that faults. -/
theorem pcAdvancesAsTheTableSays : Obligations.PcAdvancesAsTheTableSays := by
  intro s t hs h
  obtain ⟨hf, -⟩ | ⟨-, hpc, -⟩ | ⟨i, o, hr, ho, he, rfl⟩ | ⟨w, -, hw, rfl⟩ := step_cases h
  · exact absurd (hs.1.symm.trans hf) Bool.false_ne_true
  · exact absurd hs.2 (Nat.not_le_of_lt hpc)
  · rw [State.settle_latch, State.settle_pc]
    refine ⟨he.pc_of_faulted hs.1, fun hok => ⟨fun j hj => ?_, fun hnone => absurd hr.2 (hnone i)⟩⟩
    cases hr.2.symm.trans hj
    exact exec_pc ho hok
  · rw [State.settle_latch, State.settle_pc]
    exact ⟨fun hf => absurd (hs.1.symm.trans hf) Bool.false_ne_true,
      fun _ => ⟨fun j hj => absurd (hw.symm.trans hj) nofun, fun _ => BitVec.toNat_add ..⟩⟩

/-- Settles O14: no form of `Effect` writes a key, and those that write the repaint flag set it. -/
theorem stepNeverWritesKeysNorClearsDrawFlag : Obligations.StepNeverWritesKeysNorClearsDrawFlag := by
  intro s t h
  constructor
  · intro k
    have hblind : BlindToBookkeeping fun s : State => s.keys[k] := {}
    by_contra hne
    obtain ⟨i, o, -, he, heq⟩ := hblind.changed_by_exec h hne
    exact hne (heq.trans (by simp only [he.keys_eq]))
  · intro hset
    have hblind : BlindToBookkeeping State.drawFlag := {}
    by_contra hne
    obtain ⟨i, o, -, he, heq⟩ := hblind.changed_by_exec h fun hsame => hne (hsame.trans hset)
    obtain hsame | htrue := he.drawFlag_eq_or
    · exact hne (heq.trans (hsame.trans hset))
    · exact hne (heq.trans htrue)

/-- Settles O6: `step_of_runs`, with `settle` written out. -/
theorem stepRunsTheDecodedInstruction : Obligations.StepRunsTheDecodedInstruction :=
  fun _ _ _ hf hpc hd he => step_of_runs ⟨⟨hf, hpc⟩, hd⟩ he

/-- Settles O8: the fetch raises `MemoryRangeFault` with the lowest address that is out of range. -/
theorem fetchAboveMemoryFaults : Obligations.FetchAboveMemoryFaults := by
  intro s hf hpc
  have hinfo : (BitVec.ofNat 16 (max s.pc.toNat 4096)).toNat = if s.pc.toNat > 4095 then s.pc.toNat else 4096 := by
    have hlt := s.pc.isLt
    rw [BitVec.toNat_ofNat]
    split <;> omega
  have hcycle := cycle_of_fetch_out_of_range hf hpc
  exact ⟨_, hcycle, step_of_cycle hcycle, hinfo ▸ s.raise_faultsWith ..⟩

/-- Settles O9. -/
theorem faultedMachineIsStuck : Obligations.FaultedMachineIsStuck := fun _ hf =>
  ⟨step_of_latched hf, _, cycle_of_latched hf, rfl, rfl, rfl⟩

/-- Settles O12: every instruction takes one of the forms of `Effect`, each of them a next state. -/
theorem everyStepHasASuccessor : Obligations.EveryStepHasASuccessor :=
  ⟨exists_step, fun i s => (exec_effect i s).imp fun _ h => h.1⟩

end Sys2Proof.Proofs

/-! Proofs about control flow (41_control_flow.md). A frame is put together along the setters of the result; what `CALL`
and `RET` do is said once, as what `push` and `pop` do to the stack. -/

namespace Sys2Proof.Claims

open Sys2Proof.Machine

/-! ## Frames, one write at a time -/

section
variable {s t : State} {allowed : Element → Prop}

theorem ChangesOnly.refl (s : State) (allowed : Element → Prop) : ChangesOnly s s allowed := by
  intro e _
  cases e <;> rfl

theorem ChangesOnly.setPc (h : ChangesOnly s t allowed) (hpc : allowed .pc) {w : Word} :
    ChangesOnly s (t.setPc w) allowed := by
  intro e he
  have hsame := h e he
  cases e with
  | pc => exact absurd hpc he
  | _ => exact hsame

theorem ChangesOnly.setSp (h : ChangesOnly s t allowed) (hsp : allowed .sp) {n : Fin 17} :
    ChangesOnly s (t.setSp n) allowed := by
  intro e he
  have hsame := h e he
  cases e with
  | sp => exact absurd hsp he
  | _ => exact hsame

theorem ChangesOnly.setStack_set (h : ChangesOnly s t allowed) {k : Fin 16} (hk : allowed (.stack k)) {w : Word} :
    ChangesOnly s (t.setStack (t.stack.set k w)) allowed := by
  intro e he
  have hsame := h e he
  cases e with
  | stack j =>
    have hne : k.val ≠ j.val := fun heq => he (Fin.ext heq ▸ hk)
    exact (Vector.getElem_set_ne k.isLt j.isLt hne).trans hsame
  | _ => exact hsame

end

end Sys2Proof.Claims

namespace Sys2Proof.Machine

open Sys2Proof.Claims

/-! ## The call stack, by slots (R26, R141, R142) -/

/-- `push` with `k` addresses held. -/
theorem State.push_spec {s : State} {k : Fin 16} (hk : s.sp.val = k.val) (target : Word) :
    (s.push target).stack[k] = s.pc ∧ (s.push target).sp.val = k.val + 1 ∧ (s.push target).pc = target ∧
      ChangesOnly s (s.push target) fun e => e = .stack k ∨ e = .sp ∨ e = .pc := by
  have hslot : s.stack.set s.sp.val s.pc (by omega) = s.stack.set k s.pc := by simp only [hk]
  rw [s.push_of_lt target (by omega), hslot]
  refine ⟨Vector.getElem_set_self k.isLt, congrArg (· + 1) hk, rfl, ?_⟩
  exact (((ChangesOnly.refl s _).setStack_set (.inl rfl)).setSp (.inr (.inl rfl))).setPc (.inr (.inr rfl))

/-- `pop` with `k + 1` addresses held. -/
theorem State.pop_spec {s : State} {k : Fin 16} (hk : s.sp.val = k.val + 1) :
    s.pop.sp.val = k.val ∧ s.pop.pc = s.stack[k] + 2 ∧ ChangesOnly s s.pop fun e => e = .sp ∨ e = .pc := by
  have hlast : s.sp.val - 1 = k.val := by omega
  rw [s.pop_of_pos (by omega)]
  refine ⟨hlast, by simp [hlast], ?_⟩
  exact ((ChangesOnly.refl s _).setSp (.inl rfl)).setPc (.inr rfl)

end Sys2Proof.Machine

namespace Sys2Proof.Proofs

open Sys2Proof.Machine Sys2Proof.Claims

/-- Settles O32: the target of `JP V0` is a sum that cannot reach 65536. -/
theorem jumpsSetPcAndNothingElse : Obligations.JumpsSetPcAndNothingElse := by
  intro nnn s
  have hsum : (addrWord nnn + byteWord (s.reg 0)).toNat = nnn.toNat + (s.reg 0).toNat := by
    have hnnn := nnn.isLt
    have hbyte := (s.reg 0).isLt
    rw [BitVec.toNat_add, toNat_addrWord, toNat_byteWord]
    omega
  have hframe (w : Word) : ChangesOnly s (s.setPc w) (· = .pc) := (ChangesOnly.refl s (· = .pc)).setPc rfl
  exact ⟨decodeWord_encode (.jp nnn), decodeWord_encode (.jpV0 nnn), ⟨_, rfl, toNat_addrWord nnn, hframe _⟩,
    _, rfl, hsum, hframe _⟩

/-- Settles O33: `push` below the full stack, and its fault. -/
theorem callPushesItsOwnAddressOrOverflows : Obligations.CallPushesItsOwnAddressOrOverflows := by
  intro nnn s
  refine ⟨decodeWord_encode (.call nnn), fun k hk => ?_, fun hfull => ⟨_, rfl, ?_⟩⟩
  · obtain ⟨hslot, hsp, hpc, hframe⟩ := State.push_spec hk (addrWord nnn)
    exact ⟨_, rfl, hslot, hsp, (congrArg BitVec.toNat hpc).trans (toNat_addrWord nnn), hframe⟩
  · rw [s.push_of_full _ hfull]
    exact s.raise_faultsWith .stackOverflow 16

/-- Settles O34: `pop` above the empty stack, and its fault. -/
theorem retResumesAfterTheCallOrUnderflows : Obligations.RetResumesAfterTheCallOrUnderflows := by
  intro s
  refine ⟨decodeWord_encode .ret, fun k hk => ?_, fun hempty => ⟨_, rfl, ?_⟩⟩
  · obtain ⟨hsp, hpc, hframe⟩ := State.pop_spec hk
    exact ⟨_, rfl, hsp, (congrArg BitVec.toNat hpc).trans (BitVec.toNat_add ..), hframe⟩
  · rw [s.pop_of_empty hempty]
    exact s.raise_faultsWith .stackUnderflow 0

/-- Settles O35: `RET` pops the slot that `CALL` pushed. -/
theorem retAfterCallResumesAfterTheCall : Obligations.RetAfterCallResumesAfterTheCall := by
  intro nnn s t u hlt hcall hstack hsp
  cases hcall
  obtain ⟨hslot, hcount, -, -⟩ := State.push_spec (k := ⟨s.sp.val, hlt⟩) rfl (addrWord nnn)
  obtain ⟨hsp', hpc, -⟩ := State.pop_spec ((congrArg Fin.val hsp).trans hcount)
  rw [hstack, hslot] at hpc
  exact ⟨_, rfl, (congrArg BitVec.toNat hpc).trans (BitVec.toNat_add ..), Fin.ext hsp'⟩

end Sys2Proof.Proofs

/-! Proofs about the skips (42_skip.md). Every skip ends in `skipIf`, whose outcome `skipIf_spec` says once; what the key
skips add is said by `skipIfKey_of_named` and `skipIfKey_of_unnamed`. -/

namespace Sys2Proof.Machine

open Sys2Proof.Claims

/-! ## The end of every skip (R156) -/

section
variable {c : Bool} {p : Prop} [Decidable p]

/-- A skip whose condition is `p`. -/
theorem State.skipIf_spec (s : State) (hc : c = true ↔ p) :
    PcPlus s (s.skipIf c) (if p then 4 else 2) ∧ ChangesOnly s (s.skipIf c) (· = .pc) := by
  refine ⟨?_, (ChangesOnly.refl s (· = .pc)).setPc rfl⟩
  cases c with
  | true => rw [if_pos (hc.mp rfl)]; exact BitVec.toNat_add ..
  | false => rw [if_neg fun hp => Bool.false_ne_true (hc.mpr hp)]; exact BitVec.toNat_add ..

/-- A skip whose condition is that `p` does not hold. -/
theorem State.skipIf_spec_not (s : State) (hc : c = true ↔ ¬ p) :
    PcPlus s (s.skipIf c) (if p then 2 else 4) ∧ ChangesOnly s (s.skipIf c) (· = .pc) := by
  rw [← ite_not]
  exact s.skipIf_spec hc

end

/-! ## The key that a byte names (R154, R155, R227) -/

theorem State.skipIfKey_of_named (s : State) {b : Byte} {k : Fin 16} (h : b.toNat = k.val) (level : Bool) :
    s.skipIfKey b level = s.skipIf (s.keys[k] == level) := by
  have hlt : b.toNat < 16 := by omega
  have hk : keyOf b = some k := (keyOf_of_lt b hlt).trans (congrArg some (Fin.ext h))
  rw [State.skipIfKey, hk]

theorem State.skipIfKey_of_unnamed (s : State) {b : Byte} (h : 15 < b.toNat) (level : Bool) :
    s.skipIfKey b level = s.raise .keyRange (byteWord b) := by
  rw [State.skipIfKey, keyOf_of_ge b h]

theorem State.skipIfKey_faultsWith (s : State) {b : Byte} (h : 15 < b.toNat) (level : Bool) :
    FaultsWith s (s.skipIfKey b level) 5 b.toNat := by
  rw [s.skipIfKey_of_unnamed h, ← toNat_byteWord]
  exact s.raise_faultsWith .keyRange (byteWord b)

end Sys2Proof.Machine

namespace Sys2Proof.Proofs

open Sys2Proof.Machine Sys2Proof.Claims

/-- Settles O37: below 16 the byte names a key, whose flag is the skip's condition; above 15 it names none. -/
theorem keySkipsTestOneKeyOrFault : Obligations.KeySkipsTestOneKeyOrFault := by
  intro x s
  refine ⟨decodeWord_encode (.skp x), decodeWord_encode (.sknp x), fun k hk => ⟨⟨_, rfl, ?_⟩, ⟨_, rfl, ?_⟩⟩,
    fun hout => ⟨⟨_, rfl, s.skipIfKey_faultsWith hout true⟩, ⟨_, rfl, s.skipIfKey_faultsWith hout false⟩⟩⟩
  · rw [s.skipIfKey_of_named hk]
    exact s.skipIf_spec beq_iff_eq
  · rw [s.skipIfKey_of_named hk]
    exact s.skipIf_spec_not (beq_iff_eq.trans Bool.eq_false_iff)

/-- Settles O36: all four end in `skipIf`; `SE` skips on equality, `SNE` on its negation. -/
theorem comparingSkipsMovePcByFourOrTwo : Obligations.ComparingSkipsMovePcByFourOrTwo := by
  intro x y nn s
  exact ⟨⟨decodeWord_encode (.seImm x nn), _, rfl, s.skipIf_spec beq_iff_eq⟩,
    ⟨decodeWord_encode (.sneImm x nn), _, rfl, s.skipIf_spec_not bne_iff_ne⟩,
    ⟨decodeWord_encode (.seReg x y), _, rfl, s.skipIf_spec beq_iff_eq⟩,
    ⟨decodeWord_encode (.sneReg x y), _, rfl, s.skipIf_spec_not bne_iff_ne⟩⟩

end Sys2Proof.Proofs

/-! Proofs about register loads and arithmetic (43_register_alu.md). All eleven instructions end in one of two writes, a
register or a result and then its flag; what each write does and leaves alone is said once, by `writeReg_spec` and
`writeResultAndFlag_spec`. The arithmetic of the flags stands apart from both. -/

namespace Sys2Proof.Claims

open Sys2Proof.Machine

theorem ChangesOnly.setReg {s t : State} {allowed : Element → Prop} (h : ChangesOnly s t allowed) {x : RegIdx}
    (hx : allowed (.v x)) {b : Byte} : ChangesOnly s (t.setReg x b) allowed := by
  intro e he
  have hsame := h e he
  cases e with
  | v r => exact (t.setReg_reg_of_ne b fun heq : r = x => he (heq ▸ hx)).trans hsame
  | _ => exact hsame

end Sys2Proof.Claims

namespace Sys2Proof.Machine

open Sys2Proof.Claims

/-! ## The two ways in which an instruction writes its result (R12, R163) -/

theorem State.advance_pcPlus (s : State) : PcPlus s s.advance 2 := BitVec.toNat_add ..

/-- One register written, and no flag. -/
theorem State.writeReg_spec (s : State) (x : RegIdx) (b : Byte) :
    (s.setReg x b).advance.reg x = b ∧ PcPlus s (s.setReg x b).advance 2 ∧
      ChangesOnly s (s.setReg x b).advance fun e => e = .v x ∨ e = .pc :=
  ⟨s.setReg_reg_self x b, (s.setReg x b).advance_pcPlus,
    ((ChangesOnly.refl s _).setReg (.inl rfl)).setPc (.inr rfl)⟩

theorem State.writeResultAndFlag_reg_of_ne (s : State) {x : RegIdx} (hx : x ≠ VF) (b : Byte) (flag : Bool) :
    (s.writeResultAndFlag x b flag).reg x = b :=
  ((s.setReg x b).setReg_reg_of_ne (flagByte flag) hx).trans (s.setReg_reg_self x b)

/-- A result and its flag, which wins in `V[15]` (D8). -/
theorem State.writeResultAndFlag_spec (s : State) (x : RegIdx) (b : Byte) (flag : Bool) :
    (x ≠ VF → (s.writeResultAndFlag x b flag).reg x = b) ∧
      (s.writeResultAndFlag x b flag).reg VF = flagByte flag ∧ PcPlus s (s.writeResultAndFlag x b flag) 2 ∧
      ChangesOnly s (s.writeResultAndFlag x b flag) fun e => e = .v x ∨ e = .v VF ∨ e = .pc :=
  ⟨fun hx => s.writeResultAndFlag_reg_of_ne hx b flag, s.writeResultAndFlag_reg_VF x b flag,
    ((s.setReg x b).setFlag flag).advance_pcPlus,
    (((ChangesOnly.refl s _).setReg (.inl rfl)).setReg (.inr (.inl rfl))).setPc (.inr (.inr rfl))⟩

/-! ## The AND heuristic of `ADD Vx, Vy` (R167) -/

theorem carryFlag_eq_false_iff (a b : Byte) :
    carryFlag a b = false ↔ ∀ j, j < 8 → ¬ (a.getLsbD j = true ∧ b.getLsbD j = true) := by
  have hzero : carryFlag a b = false ↔ a &&& b = 0#8 := bne_eq_false_iff_eq
  rw [hzero, BitVec.eq_of_getLsbD_eq_iff]
  simp only [BitVec.getLsbD_and, BitVec.getLsbD_zero, ← Bool.and_eq_true, Bool.not_eq_true]

/-- Operands that share no 1 bit add without a carry, so their sum fits in a byte. -/
theorem toNat_add_of_carryFlag_eq_false {a b : Byte} (h : carryFlag a b = false) :
    (a + b).toNat = a.toNat + b.toNat :=
  BitVec.toNat_add_of_and_eq_zero (bne_eq_false_iff_eq.mp h)

theorem carryFlag_of_toNat_add_gt {a b : Byte} (h : 255 < a.toNat + b.toNat) : carryFlag a b = true := by
  by_contra hc
  have hsum := toNat_add_of_carryFlag_eq_false (Bool.eq_false_of_not_eq_true hc)
  have hlt := (a + b).isLt
  omega

theorem eq_false_of_flagByte_eq_zero {c : Bool} (h : flagByte c = 0x00) : c = false := by
  cases c with
  | false => rfl
  | true => exact absurd h (by decide)

/-! ## The difference, the shifts and the bits shifted out (R168 to R172) -/

theorem toNat_sub_byte (a b : Byte) : (a - b).toNat = (a.toNat + 256 - b.toNat) % 256 := by
  have hb := b.isLt
  rw [BitVec.toNat_sub]
  omega

theorem toNat_flagByte (c : Bool) : (flagByte c).toNat = c.toNat := by cases c <;> rfl

theorem toNat_flagByte_lowBit (a : Byte) : (flagByte (lowBit a)).toNat = a.toNat % 2 := by
  rw [toNat_flagByte]
  exact (Nat.toNat_testBit a.toNat 0).trans (by rw [Nat.pow_zero, Nat.div_one])

theorem toNat_flagByte_highBit (a : Byte) : (flagByte (highBit a)).toNat = a.toNat / 128 := by
  have ha := a.isLt
  rw [toNat_flagByte]
  exact (Nat.toNat_testBit a.toNat 7).trans (by omega)

theorem toNat_ushiftRight_one_byte (a : Byte) : (a >>> 1).toNat = a.toNat / 2 := by
  rw [BitVec.toNat_ushiftRight, Nat.shiftRight_eq_div_pow, Nat.pow_one]

theorem toNat_shiftLeft_one_byte (a : Byte) : (a <<< 1).toNat = a.toNat * 2 % 256 := by
  rw [BitVec.toNat_shiftLeft, Nat.shiftLeft_eq, Nat.pow_one]

end Sys2Proof.Machine

namespace Sys2Proof.Proofs

open Sys2Proof.Machine Sys2Proof.Claims

/-- Settles O40: a shared 1 bit is what `carryFlag` tests. -/
theorem addSetsTheAndHeuristicFlag : Obligations.AddSetsTheAndHeuristicFlag := by
  intro x y s
  obtain ⟨hres, hflag, hpc, hframe⟩ :=
    s.writeResultAndFlag_spec x (s.reg x + s.reg y) (carryFlag (s.reg x) (s.reg y))
  refine ⟨decodeWord_encode (.addReg x y), _, rfl, fun hx => ?_, fun ⟨j, hj, hbits⟩ => ?_, fun hnone => ?_, hpc, hframe⟩
  · rw [hres hx]; exact BitVec.toNat_add ..
  · have hc : carryFlag (s.reg x) (s.reg y) = true :=
      Bool.eq_true_of_not_eq_false fun hc => (carryFlag_eq_false_iff ..).mp hc j hj hbits
    rw [hflag, hc]; rfl
  · rw [hflag, (carryFlag_eq_false_iff ..).mpr hnone]; rfl

/-- Settles O41: with no shared 1 bit the sum has no carry. -/
theorem trueCarryImpliesTheAddFlag : Obligations.TrueCarryImpliesTheAddFlag := by
  intro x y s t h
  cases h
  obtain ⟨hres, hflag, -, -⟩ := s.writeResultAndFlag_spec x (s.reg x + s.reg y) (carryFlag (s.reg x) (s.reg y))
  refine ⟨fun hcarry => ?_, fun hzero hx => ?_⟩
  · rw [hflag, carryFlag_of_toNat_add_gt hcarry]; rfl
  · rw [hres hx]
    exact toNat_add_of_carryFlag_eq_false (eq_false_of_flagByte_eq_zero (hflag.symm.trans hzero))

/-- Settles O38: one register written, and no flag. -/
theorem loadsAndAddImmediateWriteOneRegister : Obligations.LoadsAndAddImmediateWriteOneRegister := by
  intro x y nn s
  refine ⟨⟨decodeWord_encode (.ldImm x nn), _, rfl, s.writeReg_spec x nn⟩,
    ⟨decodeWord_encode (.addImm x nn), _, rfl, (s.writeReg_spec x (s.reg x + nn)).imp_left fun hres => ?_⟩,
    ⟨decodeWord_encode (.ldReg x y), _, rfl, s.writeReg_spec x (s.reg y)⟩⟩
  rw [hres]
  exact BitVec.toNat_add ..

/-- Settles O39: one register written, each bit by the operation on its two bits. -/
theorem logicActsBitByBitWithoutFlag : Obligations.LogicActsBitByBitWithoutFlag := by
  intro x y s
  refine ⟨⟨decodeWord_encode (.orReg x y), _, rfl, (s.writeReg_spec x _).imp_left fun hres j _ => ?_⟩,
    ⟨decodeWord_encode (.andReg x y), _, rfl, (s.writeReg_spec x _).imp_left fun hres j _ => ?_⟩,
    ⟨decodeWord_encode (.xorReg x y), _, rfl, (s.writeReg_spec x _).imp_left fun hres j _ => ?_⟩⟩
  · rw [hres, BitVec.getLsbD_or]
  · rw [hres, BitVec.getLsbD_and]
  · rw [hres, BitVec.getLsbD_xor]

/-- Settles O42: the difference and the open function, whatever it is. -/
theorem subtractsWriteDifferenceAndOpenBorrow : Obligations.SubtractsWriteDifferenceAndOpenBorrow := by
  intro x y s
  refine ⟨⟨decodeWord_encode (.sub x y), _, rfl, (s.writeResultAndFlag_spec x _ _).imp_left fun hres hx => ?_⟩,
    ⟨decodeWord_encode (.subn x y), _, rfl, (s.writeResultAndFlag_spec y _ _).imp_left fun hres hy => ?_⟩⟩
  · rw [hres hx, toNat_sub_byte]
  · rw [hres hy, toNat_sub_byte]

/-- Settles O43: a shift by one, and the value of the bit that it drops. -/
theorem shiftsWriteResultAndShiftedOutBit : Obligations.ShiftsWriteResultAndShiftedOutBit := by
  intro x y s
  obtain ⟨hshr, hlow, hshrRest⟩ := s.writeResultAndFlag_spec x (s.reg x >>> 1) (lowBit (s.reg x))
  obtain ⟨hshl, hhigh, hshlRest⟩ := s.writeResultAndFlag_spec x (s.reg x <<< 1) (highBit (s.reg x))
  refine ⟨⟨decodeWord_encode (.shr x y), _, rfl, fun hx => ?_, ?_, hshrRest⟩,
    ⟨decodeWord_encode (.shl x y), _, rfl, fun hx => ?_, ?_, hshlRest⟩⟩
  · rw [hshr hx, toNat_ushiftRight_one_byte]
  · rw [hlow, toNat_flagByte_lowBit]
  · rw [hshl hx, toNat_shiftLeft_one_byte]
  · rw [hhigh, toNat_flagByte_highBit]

end Sys2Proof.Proofs

/-! Proofs about the index register and the random byte (44_index_random.md). What writing `I` does and leaves alone is
said once, by `writeIndex_spec`; `RND` is the write of one register followed by the count of its draw. -/

namespace Sys2Proof.Claims

open Sys2Proof.Machine

section
variable {s t : State} {allowed : Element → Prop}

theorem ChangesOnly.setI (h : ChangesOnly s t allowed) (hi : allowed .i) {w : Word} :
    ChangesOnly s (t.setI w) allowed := by
  intro e he
  have hsame := h e he
  cases e with
  | i => exact absurd hi he
  | _ => exact hsame

theorem ChangesOnly.countDraw (h : ChangesOnly s t allowed) (hdraws : allowed .draws) :
    ChangesOnly s t.countDraw allowed := by
  intro e he
  have hsame := h e he
  cases e with
  | draws => exact absurd hdraws he
  | _ => exact hsame

end

end Sys2Proof.Claims

namespace Sys2Proof.Machine

open Sys2Proof.Claims

/-! ## The write of `I` (R23) -/

/-- `I` written, and no flag. -/
theorem State.writeIndex_spec (s : State) (w : Word) :
    (s.setI w).advance.i = w ∧ PcPlus s (s.setI w).advance 2 ∧
      ChangesOnly s (s.setI w).advance fun e => e = .i ∨ e = .pc :=
  ⟨rfl, (s.setI w).advance_pcPlus, ((ChangesOnly.refl s _).setI (.inl rfl)).setPc (.inr rfl)⟩

/-- Five times a byte is at most 1275, so the product does not wrap (R182). -/
theorem toNat_glyphAddr (b : Byte) : (glyphAddr b).toNat = b.toNat * 5 := by
  have hb := b.isLt
  have hmul : (glyphAddr b).toNat = (byteWord b).toNat * 5 % 65536 := BitVec.toNat_mul ..
  rw [hmul, toNat_byteWord]
  omega

/-! ## The masked draw (R183) -/

/-- One register written and one draw counted, and no flag. -/
theorem State.writeDraw_spec (s : State) (x : RegIdx) (b : Byte) :
    (s.setReg x b).countDraw.advance.reg x = b ∧ (s.setReg x b).countDraw.advance.draws = s.draws + 1 ∧
      PcPlus s (s.setReg x b).countDraw.advance 2 ∧
      ChangesOnly s (s.setReg x b).countDraw.advance fun e => e = .v x ∨ e = .pc ∨ e = .draws :=
  ⟨s.setReg_reg_self x b, rfl, (s.setReg x b).countDraw.advance_pcPlus,
    (((ChangesOnly.refl s _).setReg (.inl rfl)).countDraw (.inr (.inr rfl))).setPc (.inr (.inl rfl))⟩

theorem toNat_and_le_mask (b mask : Byte) : (b &&& mask).toNat ≤ mask.toNat := by
  rw [BitVec.toNat_and]
  exact Nat.and_le_right

end Sys2Proof.Machine

namespace Sys2Proof.Proofs

open Sys2Proof.Machine Sys2Proof.Claims

/-- Settles O44: one write of `I` each, of three values. -/
theorem indexInstructionsWriteI : Obligations.IndexInstructionsWriteI := by
  intro nnn x s
  refine ⟨⟨decodeWord_encode (.ldI nnn), _, rfl, (s.writeIndex_spec _).imp_left fun hi => ?_⟩,
    ⟨decodeWord_encode (.addI x), _, rfl, (s.writeIndex_spec _).imp_left fun hi => ?_⟩,
    ⟨decodeWord_encode (.ldF x), _, rfl, (s.writeIndex_spec _).imp_left fun hi => ?_⟩⟩
  · rw [hi, toNat_addrWord]
  · rw [hi, BitVec.toNat_add, toNat_byteWord]
  · rw [hi, toNat_glyphAddr]

/-- Settles O45: the register holds the draw under the mask, whatever the draw is. -/
theorem rndMasksAFreeByte : Obligations.RndMasksAFreeByte := by
  intro x nn s
  obtain ⟨hres, hdraws, hpc, hframe⟩ := s.writeDraw_spec x (s.randomByte &&& nn)
  refine ⟨decodeWord_encode (.rnd x nn), _, rfl, fun j _ => ?_, ?_, hdraws, hpc, hframe⟩
  · rw [hres, BitVec.getLsbD_and]; rfl
  · rw [hres]; exact toNat_and_le_mask ..

end Sys2Proof.Proofs

/-! Proofs about the display (45_display.md). What a draw does to the cells and to `V[15]` is said once, by
`draw_spec`, in the terms of the statements; the three outcomes of `DRW` each have their own equation. -/

namespace Sys2Proof.Claims

open Sys2Proof.Machine

section
variable {s t : State} {allowed : Element → Prop}

theorem ChangesOnly.setDisplay (h : ChangesOnly s t allowed) {d : Display}
    (hd : ∀ k, ¬ allowed (.cell k) → Display.cell d k = Display.cell t.display k) :
    ChangesOnly s (t.setDisplay d) allowed := by
  intro e he
  have hsame := h e he
  cases e with
  | cell k => exact (hd k he).trans hsame
  | _ => exact hsame

theorem ChangesOnly.setDrawFlag (h : ChangesOnly s t allowed) (hflag : allowed .drawFlag) {b : Bool} :
    ChangesOnly s (t.setDrawFlag b) allowed := by
  intro e he
  have hsame := h e he
  cases e with
  | drawFlag => exact absurd hflag he
  | _ => exact hsame

end

end Sys2Proof.Claims

namespace Sys2Proof.Machine

open Sys2Proof.Claims

/-! ## The display, cell by cell (R190 to R192) -/

theorem Display.cell_replicate_zero (k : Nat) : Display.cell (Vector.replicate 32 0) k = false := by
  by_cases hk : k < 2048 <;> simp [Display.cell, hk]

/-- `drawSprite_spec` for the rectangle as the statements give it: a sprite with no rows may stand anywhere. -/
theorem drawSprite_spec_of_onDisplay (d : Display) {cx cy : Nat} {rows : List Byte}
    (h : rows.length = 0 ∨ (cx + 7 ≤ 63 ∧ cy + rows.length - 1 ≤ 31)) :
    (∀ j, Display.cell (drawSprite d cx cy rows).1 j = (Display.cell d j ^^ spriteHits cx cy rows j)) ∧
    ((drawSprite d cx cy rows).2 = true ↔ ∃ j, spriteHits cx cy rows j = true ∧ Display.cell d j = true) := by
  cases rows with
  | nil => simp [drawSprite, drawRows, spriteHits_nil]
  | cons b rest =>
    rw [List.length_cons] at h
    exact drawSprite_spec d cx cy _ (by omega) (by rw [List.length_cons]; omega)

/-- A cell on which a sprite has a 1 bit, by the row and the column of that bit. -/
theorem spriteHits_bytes_iff (m : Memory) {base n cx cy : Nat} (h : n = 0 ∨ cx ≤ 56) (k : Nat) :
    spriteHits cx cy (m.bytes base n) k = true ↔
      ∃ r c, r < n ∧ c < 8 ∧ (m.get (base + r)).getLsbD (7 - c) = true ∧ k = (cy + r) * 64 + (cx + c) := by
  simp only [spriteHits, Bool.and_eq_true, decide_eq_true_eq, Memory.length_bytes]
  constructor
  · rintro ⟨⟨hleft, hright, htop, hbottom⟩, hbit⟩
    rw [Memory.getD_bytes _ _ _ _ _ (by omega)] at hbit
    exact ⟨k / 64 - cy, k % 64 - cx, by omega, by omega, hbit, by omega⟩
  · rintro ⟨r, c, hr, hc, hbit, rfl⟩
    have hrow : ((cy + r) * 64 + (cx + c)) / 64 = cy + r := by omega
    have hcol : ((cy + r) * 64 + (cx + c)) % 64 = cx + c := by omega
    rw [hrow, hcol, Nat.add_sub_cancel_left, Nat.add_sub_cancel_left, Memory.getD_bytes _ _ _ _ _ hr]
    exact ⟨by omega, hbit⟩

theorem flagByte_eq_one_iff (c : Bool) : flagByte c = 0x01 ↔ c = true := by cases c <;> decide

theorem flagByte_eq_zero_iff (c : Bool) : flagByte c = 0x00 ↔ c = false :=
  ⟨eq_false_of_flagByte_eq_zero, fun hc => hc ▸ rfl⟩

/-! ## What a draw does (R191, R192) -/

section
variable {s : State} {x y : RegIdx} {n : Fin 16}

theorem spriteBitOn_iff (h : SpriteOnDisplay s x y n) (k : Nat) :
    SpriteBitOn s x y n k ↔
      spriteHits (s.reg x).toNat (s.reg y).toNat (s.mem.bytes s.dataBase n.val) k = true :=
  (spriteHits_bytes_iff s.mem (h.imp_right fun hrect => by omega) k).symm

/-- A draw on the display flips the cells under the sprite's 1 bits, and `V[15]` tells whether one of them was on. -/
theorem State.draw_spec (h : SpriteOnDisplay s x y n) :
    (∀ k, SpriteBitOn s x y n k →
      Display.cell (s.draw (s.reg x) (s.reg y) n.val).display k = !Display.cell s.display k) ∧
    (∀ k, ¬ SpriteBitOn s x y n k →
      Display.cell (s.draw (s.reg x) (s.reg y) n.val).display k = Display.cell s.display k) ∧
    ((s.draw (s.reg x) (s.reg y) n.val).reg VF = 0x01 ↔
      ∃ k, SpriteBitOn s x y n k ∧ Display.cell s.display k = true) ∧
    ((s.draw (s.reg x) (s.reg y) n.val).reg VF = 0x00 ↔
      ∀ k, SpriteBitOn s x y n k → Display.cell s.display k = false) := by
  obtain ⟨hcells, hflag⟩ := drawSprite_spec_of_onDisplay s.display
    (rows := s.mem.bytes s.dataBase n.val) (by rwa [Memory.length_bytes])
  simp only [← spriteBitOn_iff h] at hflag
  refine ⟨fun k hon => ?_, fun k hoff => ?_, ?_, ?_⟩
  · rw [spriteBitOn_iff h] at hon
    exact (hcells k).trans (by rw [hon, Bool.xor_true])
  · rw [spriteBitOn_iff h, Bool.not_eq_true] at hoff
    exact (hcells k).trans (by rw [hoff, Bool.xor_false])
  · rw [State.draw_reg_VF, flagByte_eq_one_iff, hflag]
  · rw [State.draw_reg_VF, flagByte_eq_zero_iff, ← Bool.not_eq_true, hflag]
    simp only [not_exists, not_and, Bool.not_eq_true]

theorem State.draw_changesOnly (h : SpriteOnDisplay s x y n) :
    ChangesOnly s (s.draw (s.reg x) (s.reg y) n.val)
      fun e => (∃ k, SpriteBitOn s x y n k ∧ e = .cell k) ∨ e = .v VF ∨ e = .drawFlag ∨ e = .pc := by
  obtain ⟨-, hleft, -⟩ := State.draw_spec h
  exact ((((ChangesOnly.refl s _).setDisplay fun k hk => hleft k fun hon => hk (.inl ⟨k, hon, rfl⟩)).setReg
    (.inr (.inl rfl))).setDrawFlag (.inr (.inr (.inl rfl)))).setPc (.inr (.inr (.inr rfl)))

theorem State.draw_reg_of_ne (s : State) (cx cy : Byte) (n : Nat) {r : RegIdx} (hr : r ≠ VF) :
    (s.draw cx cy n).reg r = s.reg r :=
  (s.setDisplay _).setReg_reg_of_ne _ hr

/-- A draw leaves the sprite where it was, unless `V[15]` is one of its coordinates. -/
theorem spriteBitOn_draw (hx : x ≠ VF) (hy : y ≠ VF) (cx cy : Byte) (m k : Nat) :
    SpriteBitOn (s.draw cx cy m) x y n k ↔ SpriteBitOn s x y n k := by
  unfold SpriteBitOn
  rw [s.draw_reg_of_ne cx cy m hx, s.draw_reg_of_ne cx cy m hy]
  exact Iff.rfl

theorem spriteOnDisplay_draw (hx : x ≠ VF) (hy : y ≠ VF) (cx cy : Byte) (m : Nat) :
    SpriteOnDisplay (s.draw cx cy m) x y n ↔ SpriteOnDisplay s x y n := by
  rw [SpriteOnDisplay, SpriteOnDisplay, s.draw_reg_of_ne cx cy m hx, s.draw_reg_of_ne cx cy m hy]

/-! ## The outcomes of `DRW` (R191, R233) -/

theorem spriteReadable_iff : SpriteReadable s n ↔ n.val = 0 ∨ s.dataBase + n.val ≤ 4096 := by
  simp only [SpriteReadable, State.dataBase]
  omega

theorem offDisplay_eq_false_iff :
    offDisplay (s.reg x).toNat (s.reg y).toNat n.val = false ↔ SpriteOnDisplay s x y n := by
  simp only [offDisplay, SpriteOnDisplay, Bool.and_eq_false_iff, Bool.or_eq_false_iff, decide_eq_false_iff_not]
  omega

theorem exec_drw_of_drawable (hread : SpriteReadable s n) (hon : SpriteOnDisplay s x y n) :
    exec (.drw x y n) s = .next (s.draw (s.reg x) (s.reg y) n.val) := by
  refine congrArg _ ((s.withRange_of_fits _ (spriteReadable_iff.mp hread)).trans ?_)
  rw [offDisplay_eq_false_iff.mpr hon, if_neg Bool.false_ne_true]

theorem exec_drw_of_unreadable (hread : ¬ SpriteReadable s n) :
    exec (.drw x y n) s = .next (s.raise .memRange (BitVec.ofNat 16 (max s.dataBase 4096))) :=
  congrArg _ (s.withRange_of_not_fits _ (mt spriteReadable_iff.mpr hread))

theorem exec_drw_of_offDisplay (hread : SpriteReadable s n) (hoff : ¬ SpriteOnDisplay s x y n) :
    exec (.drw x y n) s = .next (s.raise .displayRange (s.reg y ++ s.reg x)) := by
  refine congrArg _ ((s.withRange_of_fits _ (spriteReadable_iff.mp hread)).trans (if_pos ?_))
  exact Bool.eq_true_of_not_eq_false (mt offDisplay_eq_false_iff.mp hoff)

/-- The lowest address outside memory fits in the latch, because `I` does (R223). -/
theorem State.toNat_lowestOutside (s : State) : (BitVec.ofNat 16 (max s.dataBase 4096)).toNat = max s.i.toNat 4096 :=
  Nat.mod_eq_of_lt (max_lt s.i.isLt (by decide))

end

end Sys2Proof.Machine

namespace Sys2Proof.Proofs

open Sys2Proof.Machine Sys2Proof.Claims

/-- Settles O47: the three outcomes of `DRW`, the drawing one by `draw_spec`. -/
theorem drwFlipsTheSpriteCellsOrFaults : Obligations.DrwFlipsTheSpriteCellsOrFaults := by
  intro x y n s
  refine ⟨decodeWord_encode (.drw x y n), fun hread hon => ⟨_, exec_drw_of_drawable hread hon, ?_⟩,
    fun hread => ⟨_, exec_drw_of_unreadable hread, ?_⟩, fun hread hoff => ⟨_, exec_drw_of_offDisplay hread hoff, ?_⟩⟩
  · obtain ⟨hflipped, -, hcollision, hclear⟩ := State.draw_spec hon
    exact ⟨hflipped, hcollision.mpr, hclear.mpr, rfl, State.advance_pcPlus _, State.draw_changesOnly hon⟩
  · rw [← s.toNat_lowestOutside]
    exact s.raise_faultsWith .memRange _
  · rw [← toNat_append_byte]
    exact s.raise_faultsWith .displayRange _

/-- Settles O48: the first draw leaves the sprite and its place, so the second flips the same cells back; after a first
draw that met no lit cell, all of them are on. -/
theorem drawingTwiceRestoresTheDisplay : Obligations.DrawingTwiceRestoresTheDisplay := by
  intro x y n s t hx hy hread hon h
  cases (exec_drw_of_drawable hread hon).symm.trans h
  obtain ⟨hflipped, hkept, -, hclear⟩ := State.draw_spec hon
  have hon' := (spriteOnDisplay_draw hx hy (s.reg x) (s.reg y) n.val).mpr hon
  obtain ⟨hflipped', hkept', hcollision', hclear'⟩ := State.draw_spec hon'
  simp only [spriteBitOn_draw hx hy] at hflipped' hkept' hcollision' hclear'
  refine ⟨_, exec_drw_of_drawable hread hon', fun k => ?_, fun hzero => ⟨fun ⟨k, hk⟩ => ?_, fun hnone => ?_⟩⟩
  · by_cases hk : SpriteBitOn s x y n k
    · rw [hflipped' k hk, hflipped k hk, Bool.not_not]
    · rw [hkept' k hk, hkept k hk]
  · exact hcollision'.mpr ⟨k, hk, by rw [hflipped k hk, hclear.mp hzero k hk, Bool.not_false]⟩
  · exact hclear'.mpr fun k hk => absurd hk (hnone k)

/-- Settles O46: the cleared display, whatever it was. -/
theorem clsClearsEveryCell : Obligations.ClsClearsEveryCell := by
  intro s
  refine ⟨decodeWord_encode .cls, _, rfl, fun k _ => Display.cell_replicate_zero k, rfl, State.advance_pcPlus _, ?_⟩
  exact (((ChangesOnly.refl s _).setDisplay fun k hk => absurd (.inl ⟨k, rfl⟩) hk).setDrawFlag
    (.inr (.inl rfl))).setPc (.inr (.inr rfl))

end Sys2Proof.Proofs

/-! Proofs about the timers and the key wait (46_timer_key.md). What writing a timer leaves alone is said once for each
timer; the key wait is decided by `lowestPressed`, which the statements spell out key by key. -/

namespace Sys2Proof.Claims

open Sys2Proof.Machine

section
variable {s t : State} {allowed : Element → Prop}

theorem ChangesOnly.setDelay (h : ChangesOnly s t allowed) (hdelay : allowed .delay) {b : Byte} :
    ChangesOnly s (t.setDelay b) allowed := by
  intro e he
  have hsame := h e he
  cases e with
  | delay => exact absurd hdelay he
  | _ => exact hsame

theorem ChangesOnly.setSound (h : ChangesOnly s t allowed) (hsound : allowed .sound) {b : Byte} :
    ChangesOnly s (t.setSound b) allowed := by
  intro e he
  have hsame := h e he
  cases e with
  | sound => exact absurd hsound he
  | _ => exact hsame

end

end Sys2Proof.Claims

namespace Sys2Proof.Machine

open Sys2Proof.Claims

/-! ## The timer update (R125) -/

/-- Both timers go down by one unless zero, and nothing else moves. -/
theorem State.updateTimers_spec (s : State) :
    s.updateTimers.delay.toNat = s.delay.toNat - 1 ∧ s.updateTimers.sound.toNat = s.sound.toNat - 1 ∧
      ChangesOnly s s.updateTimers fun e => e = .delay ∨ e = .sound :=
  ⟨toNat_tick s.delay, toNat_tick s.sound, ((ChangesOnly.refl s _).setDelay (.inl rfl)).setSound (.inr rfl)⟩

end Sys2Proof.Machine

namespace Sys2Proof.Proofs

open Sys2Proof.Machine Sys2Proof.Claims

/-- Settles O50: the key that `lowestPressed` finds is written to one register; with none found nothing is written. -/
theorem keyWaitStoresTheLowestPressedKey : Obligations.KeyWaitStoresTheLowestPressedKey := by
  intro x s
  refine ⟨decodeWord_encode (.ldKey x), fun k hpressed hlowest => ?_, fun hnone => ?_⟩
  · have hk := (s.lowestPressed_eq_some_iff k).mpr ⟨hpressed, hlowest⟩
    obtain ⟨hres, hpc, hframe⟩ := s.writeReg_spec x (BitVec.ofNat 8 k.val)
    refine ⟨_, exec_ldKey_of_pressed x hk, ?_, hpc, hframe⟩
    rw [hres, BitVec.toNat_ofNat]
    exact Nat.mod_eq_of_lt (k.isLt.trans (by decide))
  · exact exec_ldKey_of_released x (s.lowestPressed_eq_none_iff.mpr hnone)

/-- Settles O51: the operation leaves the ready state as it was, so all that is left of the step is the timer update. -/
theorem waitingStepOnlyMovesTheTimers : Obligations.WaitingStepOnlyMovesTheTimers := by
  intro x s hruns hnone
  have hexec := exec_ldKey_of_released x (s.lowestPressed_eq_none_iff.mpr hnone)
  have hstep := step_of_runs hruns hexec
  obtain ⟨⟨hrunning, -⟩, -⟩ := hruns
  rw [State.settle_of_completed hrunning] at hstep
  exact ⟨_, hstep, s.updateTimers_spec⟩

/-- Settles O49: one register or one timer written. -/
theorem timerInstructionsMoveOneByte : Obligations.TimerInstructionsMoveOneByte := by
  intro x s
  exact ⟨⟨decodeWord_encode (.ldFromDt x), _, rfl, s.writeReg_spec x s.delay⟩,
    ⟨decodeWord_encode (.ldDt x), _, rfl, rfl, State.advance_pcPlus _,
      ((ChangesOnly.refl s _).setDelay (.inl rfl)).setPc (.inr rfl)⟩,
    ⟨decodeWord_encode (.ldSt x), _, rfl, rfl, State.advance_pcPlus _,
      ((ChangesOnly.refl s _).setSound (.inl rfl)).setPc (.inr rfl)⟩⟩

end Sys2Proof.Proofs

/-! Proofs about the memory instructions (47_bcd_regmem.md). What a run of stored bytes leaves in memory, what a load
leaves in the registers, and the fault that all three instructions share are each said once; the stores in range are
those of `exec_ldBcd_of_fits` and `exec_storeRegs_of_fits`. -/

namespace Sys2Proof.Claims

open Sys2Proof.Machine

section
variable {s t : State} {allowed : Element → Prop}

theorem ChangesOnly.setRegs (h : ChangesOnly s t allowed) {v : Vector Byte 16}
    (hv : ∀ r : RegIdx, ¬ allowed (.v r) → v[r] = t.reg r) : ChangesOnly s (t.setRegs v) allowed := by
  intro e he
  have hsame := h e he
  cases e with
  | v r => exact (hv r he).trans hsame
  | _ => exact hsame

/-- A run of bytes changes only the addresses of the run. -/
theorem ChangesOnly.setMem_setBytes (h : ChangesOnly s t allowed) {base : Nat} {bs : List Byte}
    (hrun : ∀ k, k < bs.length → allowed (.mem (base + k))) :
    ChangesOnly s (t.setMem (t.mem.setBytes base bs)) allowed := by
  intro e he
  have hsame := h e he
  cases e with
  | mem a =>
    refine Eq.trans (Memory.get_setBytes_outside bs t.mem base a ?_) hsame
    by_contra hin
    obtain ⟨k, rfl⟩ := Nat.exists_eq_add_of_le (show base ≤ a by omega)
    exact he (hrun k (by omega))
  | _ => exact hsame

end

end Sys2Proof.Claims

namespace Sys2Proof.Machine

open Sys2Proof.Claims

/-! ## The bytes that a store leaves (R210, R211) -/

theorem Memory.get_setBytes_add (m : Memory) (base k : Nat) (bs : List Byte) :
    (m.setBytes base bs).get (base + k) = bs.getD k (m.get (base + k)) := by
  rw [Memory.get_setBytes, if_pos (Nat.le_add_right base k), Nat.add_sub_cancel_left]

theorem Memory.get_setBytes_regsUpTo (m : Memory) (base : Nat) (s : State) {x r : RegIdx} (h : r ≤ x) :
    (m.setBytes base (s.regsUpTo x)).get (base + r.val) = s.reg r :=
  (m.get_setBytes_add base r.val _).trans (s.getD_regsUpTo x r _ h)

/-- The three digits are below 256, so each is held by its byte (R210). -/
theorem Memory.toNat_get_setBytes_bcdDigits (m : Memory) (base : Nat) (b : Byte) :
    ((m.setBytes base (bcdDigits b)).get base).toNat = b.toNat / 100 ∧
      ((m.setBytes base (bcdDigits b)).get (base + 1)).toNat = b.toNat / 10 % 10 ∧
      ((m.setBytes base (bcdDigits b)).get (base + 2)).toNat = b.toNat % 10 := by
  have hb := b.isLt
  have hget (k : Nat) := congrArg BitVec.toNat (m.get_setBytes_add base k (bcdDigits b))
  exact ⟨(hget 0).trans (Nat.mod_eq_of_lt (by omega)), (hget 1).trans (Nat.mod_eq_of_lt (by omega)),
    (hget 2).trans (Nat.mod_eq_of_lt (by omega))⟩

/-! ## The load (R212) -/

/-- A load in range: the registers up to `x` from memory, the others as they were. -/
theorem exec_loadRegs_of_fits {s : State} (x : RegIdx) (h : s.i.toNat + x.val ≤ 4095) :
    ∃ v : Vector Byte 16, exec (.loadRegs x) s = .next (s.setRegs v).advance ∧
      ∀ r : RegIdx, v[r] = if r ≤ x then s.mem.get (s.i.toNat + r.val) else s.reg r :=
  ⟨_, congrArg Host.Outcome.next (s.withRange_of_fits _ (.inr (by simp only [State.dataBase]; omega))),
    s.reg_loadUpTo x⟩

/-! ## The fault of a data access (R223; D2, D30) -/

/-- An access from `I` that ends above address 4095. -/
theorem State.withRange_faultsWith (s next : State) {last : Nat} (h : 4095 < s.i.toNat + last) :
    FaultsWith s (s.withRange s.dataBase (last + 1) next) 1 (max s.i.toNat 4096) := by
  rw [s.withRange_of_not_fits next (by simp only [State.dataBase]; omega), ← s.toNat_lowestOutside]
  exact s.raise_faultsWith .memRange _

end Sys2Proof.Machine

namespace Sys2Proof.Proofs

open Sys2Proof.Machine Sys2Proof.Claims

/-- Settles O52: a run of three bytes from `I` on, each a decimal digit, or the fault of its range. -/
theorem bcdStoresThreeDigitsOrFaults : Obligations.BcdStoresThreeDigitsOrFaults := by
  intro x s
  refine ⟨decodeWord_encode (.ldBcd x), fun hfit => ⟨_, exec_ldBcd_of_fits x hfit, ?_⟩,
    fun hout => ⟨_, rfl, s.withRange_faultsWith _ hout⟩⟩
  obtain ⟨hhundreds, htens, hones⟩ := s.mem.toNat_get_setBytes_bcdDigits s.i.toNat (s.reg x)
  exact ⟨hhundreds, htens, hones, State.advance_pcPlus _,
    ((ChangesOnly.refl s _).setMem_setBytes fun k hk => .inl ⟨k, hk, rfl⟩).setPc (.inr rfl)⟩

/-- Settles O53: a run of `x + 1` bytes from `I` on, one per register, or the fault of its range. -/
theorem dumpStoresRegistersUpToXOrFaults : Obligations.DumpStoresRegistersUpToXOrFaults := by
  intro x s
  refine ⟨decodeWord_encode (.storeRegs x), fun hfit => ⟨_, exec_storeRegs_of_fits x hfit,
    fun _ hr => s.mem.get_setBytes_regsUpTo _ s hr, State.advance_pcPlus _, ?_⟩,
    fun hout => ⟨_, rfl, s.withRange_faultsWith _ hout⟩⟩
  refine ((ChangesOnly.refl s _).setMem_setBytes fun k hk => ?_).setPc (.inr rfl)
  rw [s.length_regsUpTo x] at hk
  exact .inl ⟨k, Nat.le_of_lt_succ hk, rfl⟩

/-- Settles O54: the registers that `exec_loadRegs_of_fits` gives, or the fault of the range. -/
theorem loadFillsRegistersUpToXOrFaults : Obligations.LoadFillsRegistersUpToXOrFaults := by
  intro x s
  refine ⟨decodeWord_encode (.loadRegs x), fun hfit => ?_, fun hout => ⟨_, rfl, s.withRange_faultsWith _ hout⟩⟩
  obtain ⟨v, hexec, hv⟩ := exec_loadRegs_of_fits x hfit
  refine ⟨_, hexec, fun r hr => (hv r).trans (if_pos hr), (s.setRegs v).advance_pcPlus, ?_⟩
  exact ((ChangesOnly.refl s _).setRegs fun r hr =>
    (hv r).trans (if_neg fun hle => hr (.inl ⟨r, hle, rfl⟩))).setPc (.inr rfl)

/-- Settles O55: the load reads at each address the register that the dump stored there. -/
theorem loadAfterDumpRestoresTheRegisters : Obligations.LoadAfterDumpRestoresTheRegisters := by
  intro x s t u hfit hdump hmem hi
  cases hdump.symm.trans (exec_storeRegs_of_fits x hfit)
  have hmem' : u.mem = s.mem.setBytes s.i.toNat (s.regsUpTo x) := hmem
  have hi' : u.i = s.i := hi
  obtain ⟨v, hexec, hv⟩ := exec_loadRegs_of_fits x (hi' ▸ hfit : u.i.toNat + x.val ≤ 4095)
  refine ⟨_, hexec, fun r hr => ?_, fun r hr => (hv r).trans (if_neg (not_le.mpr hr)), hi'⟩
  refine (hv r).trans ((if_pos hr).trans ?_)
  rw [hmem', hi']
  exact s.mem.get_setBytes_regsUpTo _ s hr

end Sys2Proof.Proofs

/-! Proofs about faults and the host interface (60_exceptions.md). `FaultOutcome` reads one entry of the fault table;
that every operation meets its entry is said once, in `operation_faultOutcome`. A host run is followed transaction by
transaction: each answers, and after the first `reset` each keeps the invariant. -/

namespace Sys2Proof.Machine

open Sys2Proof.Claims

/-! ## The fault table (R222, R233) -/

/-- What an entry of the fault table says of the state `t` that the operation of a step at `s` leaves. -/
def FaultOutcome (s t : State) : Option (Nat × Nat) → Prop
  | some (c, info) => FaultsWith s t c info
  | none => t.latch = s.latch

/-- The checks of a table entry, one at a time. -/
theorem FaultOutcome.ite {s t : State} {p : Prop} [Decidable p] {c info : Nat} {rest : Option (Nat × Nat)}
    (hfault : p → FaultsWith s t c info) (hrest : ¬ p → FaultOutcome s t rest) :
    FaultOutcome s t (if p then some (c, info) else rest) := by
  split
  · exact hfault ‹p›
  · exact hrest ‹¬ p›

theorem State.push_faultOutcome (s : State) (target : Word) :
    FaultOutcome s (s.push target) (if s.sp.val = 16 then some (2, 16) else none) := by
  refine .ite (fun hfull => ?_) fun hroom => ?_
  · rw [s.push_of_full target hfull]
    exact s.raise_faultsWith .stackOverflow 16
  · rw [s.push_of_lt target (by omega)]
    rfl

theorem State.pop_faultOutcome (s : State) :
    FaultOutcome s s.pop (if s.sp.val = 0 then some (3, 0) else none) := by
  refine .ite (fun hempty => ?_) fun hheld => ?_
  · rw [s.pop_of_empty hempty]
    exact s.raise_faultsWith .stackUnderflow 0
  · rw [s.pop_of_pos hheld]
    rfl

theorem State.skipIfKey_faultOutcome (s : State) (b : Byte) (level : Bool) :
    FaultOutcome s (s.skipIfKey b level) (if b.toNat > 15 then some (5, b.toNat) else none) := by
  refine .ite (fun hout => s.skipIfKey_faultsWith hout level) fun hin => ?_
  rw [s.skipIfKey_of_named (k := ⟨b.toNat, by omega⟩) rfl]
  rfl

/-- An access from `I` whose own effect leaves the latch alone. -/
theorem State.withRange_faultOutcome {s next : State} (last : Nat) (h : next.latch = s.latch) :
    FaultOutcome s (s.withRange s.dataBase (last + 1) next)
      (if s.i.toNat + last > 4095 then some (1, max s.i.toNat 4096) else none) := by
  refine .ite (fun hout => s.withRange_faultsWith next hout) fun hfit => ?_
  rw [s.withRange_of_fits next (.inr (by simp only [State.dataBase]; omega))]
  exact h

/-- `DRW` checks memory first and the display second (R233). -/
theorem exec_drw_faultOutcome {s o : State} {x y : RegIdx} {n : Fin 16} (ho : exec (.drw x y n) s = .next o) :
    FaultOutcome s o
      (if n.val > 0 ∧ s.i.toNat + n.val - 1 > 4095 then some (1, max s.i.toNat 4096)
      else if n.val > 0 ∧ ((s.reg x).toNat + 7 > 63 ∨ (s.reg y).toNat + n.val - 1 > 31) then
        some (4, (s.reg y).toNat * 256 + (s.reg x).toNat)
      else none) := by
  obtain ⟨-, -, hmemory, hdisplay⟩ := Proofs.drwFlipsTheSpriteCellsOrFaults x y n s
  refine .ite (fun hout => ?_) fun hin => ?_
  · obtain ⟨t, ht, hfaults⟩ := hmemory (by simp only [SpriteReadable]; omega)
    cases ho.symm.trans ht
    exact hfaults
  · have hread : SpriteReadable s n := by simp only [SpriteReadable]; omega
    refine .ite (fun hout => ?_) fun hin => ?_
    · obtain ⟨t, ht, hfaults⟩ := hdisplay hread (by simp only [SpriteOnDisplay]; omega)
      cases ho.symm.trans ht
      exact hfaults
    · have hon : SpriteOnDisplay s x y n := by simp only [SpriteOnDisplay]; omega
      cases ho.symm.trans (exec_drw_of_drawable hread hon)
      rfl

theorem faultTable_of_unknown {s : State} (hs : Ready s) {w : Word} (hw : decodeWord s.fetchWord = .unknown w) :
    faultTable s = none := by
  obtain ⟨-, hpc⟩ := hs
  rw [faultTable, if_neg (by omega), hw]

/-- An instruction does what its entry of the fault table says. -/
theorem exec_faultOutcome {s o : State} {i : Instr} (hr : Runs s i) (ho : exec i s = .next o) :
    FaultOutcome s o (faultTable s) := by
  obtain ⟨⟨-, hpc⟩, hd⟩ := hr
  rw [faultTable, if_neg (by omega), hd]
  cases i with
  | ret => cases ho; exact s.pop_faultOutcome
  | call nnn => cases ho; exact s.push_faultOutcome (addrWord nnn)
  | skp | sknp => cases ho; exact s.skipIfKey_faultOutcome ..
  | ldBcd => cases ho; exact State.withRange_faultOutcome 2 rfl
  | storeRegs x | loadRegs x => cases ho; exact State.withRange_faultOutcome x.val rfl
  | drw => exact exec_drw_faultOutcome ho
  | ldKey x =>
    cases hk : s.lowestPressed with
    | some k => cases ho.symm.trans (exec_ldKey_of_pressed x hk); rfl
    | none => cases ho.symm.trans (exec_ldKey_of_released x hk); rfl
  | _ => cases ho; rfl

theorem operation_faultOutcome {s o : State} (hs : Ready s) (ho : operation s.fetchWord s = .next o) :
    FaultOutcome s o (faultTable s) := by
  cases hd : decodeWord s.fetchWord with
  | instr i => exact exec_faultOutcome ⟨hs, hd⟩ ((operation_of_instr hd s).symm.trans ho)
  | unknown w =>
    cases ho.symm.trans (operation_of_unknown hd s)
    rw [faultTable_of_unknown hs hd]
    rfl

/-- The lowest address that a fetch lacks fits in the latch, because `pc` does (R223). -/
theorem State.toNat_lowestFetchOutside (s : State) :
    (BitVec.ofNat 16 (max s.pc.toNat 4096)).toNat = max s.pc.toNat 4096 :=
  Nat.mod_eq_of_lt (max_lt s.pc.isLt (by decide))

/-- A fault ends the step with no timer update (R128). -/
theorem State.settle_of_faulted {t : State} (h : t.latch.fault = true) : t.settle = t := if_pos h

/-! ## Host runs (R242, R244) -/

theorem exists_cycle (s : State) : ∃ p, cycle s = .next p := by
  obtain ⟨t, ht⟩ := exists_step s
  cases hc : cycle s with
  | next p => exact ⟨p, rfl⟩
  | fault f => simp [step, hc] at ht
  | refused r => simp [step, hc] at ht

/-- Every transaction answers. -/
theorem exists_transact (q : Transaction) (s : State) : ∃ t a, transact q s = .next (t, a) := by
  cases q with
  | loadProgram image =>
    cases hl : s.loadProgram image with
    | ok u => exact ⟨u, .done, by simp only [transact, hl]⟩
    | error e => exact ⟨s, .loadError e, by simp only [transact, hl]⟩
  | step =>
    obtain ⟨p, hp⟩ := exists_cycle s
    exact ⟨p.1, .stepped p.2, by simp only [transact, hp]⟩
  | _ => exact ⟨_, _, rfl⟩

/-- From a state with the invariant every host run answers, lawful or not, and keeps the invariant. -/
theorem State.Inv.runHost (qs : List Transaction) {s : State} (h : s.Inv) :
    ∃ t answers, runHost qs s = .next (t, answers) ∧ answers.length = qs.length ∧ t.Inv := by
  induction qs generalizing s with
  | nil => exact ⟨s, [], rfl, rfl, h⟩
  | cons q qs ih =>
    obtain ⟨t, a, hq⟩ := exists_transact q s
    obtain ⟨u, rest, hrun, hlen, hu⟩ := ih (h.transact hq)
    exact ⟨u, a :: rest, (runHost_cons_iff ..).mpr ⟨t, a, rest, hq, hrun, rfl⟩, congrArg (· + 1) hlen, hu⟩

theorem eq_reset_of_allows_beforeReset {q : Transaction} (h : HostPhase.beforeReset.allows q = true) : q = .reset := by
  cases q with
  | reset => rfl
  | _ => cases h

theorem eq_reset_of_lawful {q : Transaction} {qs : List Transaction} (h : lawful (q :: qs) = true) : q = .reset := by
  rw [lawful, lawfulFrom_cons, Bool.and_eq_true] at h
  obtain ⟨hq, -⟩ := h
  exact eq_reset_of_allows_beforeReset hq

/-- Nothing but a `reset` or a load that succeeds ends the standing of a failed load. -/
theorem afterAll_loadFailed {qs : List Transaction} (hreset : .reset ∉ qs)
    (hloads : ∀ image, .loadProgram image ∈ qs → 3584 < image.length) :
    HostPhase.loadFailed.afterAll qs = .loadFailed := by
  induction qs with
  | nil => rfl
  | cons q qs ih =>
    obtain ⟨hq, hqs⟩ := List.ne_and_not_mem_of_not_mem_cons hreset
    have hkeep : HostPhase.loadFailed.after q = .loadFailed :=
      after_loadFailed q (Ne.symm hq) fun image himage =>
        (imageWellFormed_eq_false_iff image).mpr (hloads image (himage ▸ List.mem_cons_self))
    have hrest := ih hqs fun image himage => hloads image (List.mem_cons_of_mem q himage)
    rwa [HostPhase.afterAll, List.foldl_cons, hkeep]

/-- With no failed load every sequence is lawful after a `reset`. -/
theorem lawfulFrom_free {qs : List Transaction} (h : ∀ image, .loadProgram image ∈ qs → image.length ≤ 3584) :
    lawfulFrom .free qs = true := by
  induction qs with
  | nil => rfl
  | cons q qs ih =>
    have hkeep : HostPhase.free.after q = .free :=
      after_free q fun image himage => (imageWellFormed_iff image).mpr (h image (himage ▸ List.mem_cons_self))
    rw [lawfulFrom_cons, allows_free, hkeep, Bool.true_and]
    exact ih fun image himage => h image (List.mem_cons_of_mem q himage)

end Sys2Proof.Machine

namespace Sys2Proof.Claims

open Sys2Proof.Machine

theorem ChangesOnly.setKeys_set {s t : State} {allowed : Element → Prop} (h : ChangesOnly s t allowed) {k : Fin 16}
    (hk : allowed (.key k)) {b : Bool} : ChangesOnly s (t.setKeys (t.keys.set k b)) allowed := by
  intro e he
  have hsame := h e he
  cases e with
  | key j =>
    have hne : k.val ≠ j.val := fun heq => he (Fin.ext heq ▸ hk)
    exact (Vector.getElem_set_ne k.isLt j.isLt hne).trans hsame
  | _ => exact hsame

end Sys2Proof.Claims

namespace Sys2Proof.Proofs

open Sys2Proof.Machine Sys2Proof.Claims

/-- Settles O10: the fetch by its own check, the operation by `operation_faultOutcome`; `finish` reads the latch. -/
theorem faultsAreExactlyThoseOfTheTable : Obligations.FaultsAreExactlyThoseOfTheTable := by
  intro s hs
  by_cases hpc : s.pc.toNat ≤ 0x0FFE
  · have hready : Ready s := ⟨hs, hpc⟩
    obtain ⟨o, ho⟩ := exists_operation s.fetchWord s
    have hcycle := cycle_of_ready hready ho
    rw [finish_eq] at hcycle
    refine ⟨_, _, hcycle, step_of_cycle hcycle, ?_⟩
    have houtcome := operation_faultOutcome hready ho
    cases htable : faultTable s with
    | some entry =>
      rw [htable] at houtcome
      have hfaults : FaultsWith s o entry.1 entry.2 := houtcome
      obtain ⟨hfault, hcode, -⟩ := houtcome
      rw [State.settle_of_faulted hfault, if_pos hfault]
      exact ⟨hfaults, ⟨_, _, rfl, hcode⟩, rfl, rfl⟩
    | none =>
      rw [htable] at houtcome
      have hlatch : o.latch = s.latch := houtcome
      rw [hlatch, hs, if_neg Bool.false_ne_true]
      exact ⟨o.settle_latch.trans hlatch, _, _, _, rfl⟩
  · have htable : faultTable s = some (1, max s.pc.toNat 4096) := if_pos (by omega)
    have hcycle := cycle_of_fetch_out_of_range hs (Nat.lt_of_not_le hpc)
    refine ⟨_, _, hcycle, step_of_cycle hcycle, ?_⟩
    have hfaults := s.raise_faultsWith .memRange (BitVec.ofNat 16 (max s.pc.toNat 4096))
    rw [s.toNat_lowestFetchOutside] at hfaults
    rw [htable]
    exact ⟨hfaults, ⟨_, _, rfl, rfl⟩, rfl, rfl⟩

/-- Settles O7: a word that no row selects is unknown (O4), so its operation moves `pc` and the step's end ticks the
timers. -/
theorem unknownWordIsANoOpWithAnEvent : Obligations.UnknownWordIsANoOpWithAnEvent := by
  intro s hs hnone
  obtain ⟨-, -, hunmatched⟩ := decoderSelectsTheUniqueMatchingRow s.fetchWord
  have hd := hunmatched hnone
  have hok : s.advance.latch.fault = false := hs.1
  have hevent : eventOf s.fetchWord s.pc = some ⟨s.fetchWord, s.pc⟩ :=
    eventOf_of_not_instr (fun i hi => absurd (hd.symm.trans hi) nofun) s.pc
  have hcycle := cycle_of_ready hs (o := s.advance) (operation_of_unknown hd s)
  rw [finish_eq, hevent, State.settle_of_completed hok, hok, if_neg Bool.false_ne_true] at hcycle
  obtain ⟨hdelay, hsound, -⟩ := s.advance.updateTimers_spec
  exact ⟨_, hcycle, step_of_cycle hcycle, s.advance_pcPlus, hdelay, hsound,
    (((ChangesOnly.refl s _).setPc (.inl rfl)).setDelay (.inr (.inl rfl))).setSound (.inr (.inr rfl))⟩

/-- Settles O57: a failed load takes the step away, and only a `reset` or a good load gives it back. -/
theorem lawfulHostKeepsItsDuties : Obligations.LawfulHostKeepsItsDuties := by
  refine ⟨fun q qs h => eq_reset_of_lawful h, fun before between later image hlong h => ?_, fun qs hloads => ?_⟩
  · by_contra hnone
    obtain ⟨hreset, hloads⟩ := not_or.mp hnone
    have hphase : HostPhase.loadFailed.afterAll between = .loadFailed :=
      afterAll_loadFailed hreset fun ok hok => Nat.lt_of_not_le fun hle => hloads ⟨ok, hok, hle⟩
    have hfailed : ∀ p : HostPhase, p.after (.loadProgram image) = .loadFailed := fun p => by
      simp [HostPhase.after, (imageWellFormed_eq_false_iff image).mpr hlong]
    rw [lawful, lawfulFrom_append, lawfulFrom_cons, hfailed, lawfulFrom_append, hphase, lawfulFrom_cons] at h
    simp [HostPhase.allows] at h
  · exact lawfulFrom_free hloads

/-- Settles O58: the first transaction is a `reset`, which makes the invariant true, and the rest keep it. -/
theorem lawfulRunsReachOnlyTheInvariant : Obligations.LawfulRunsReachOnlyTheInvariant := by
  intro qs s hne hlawful
  cases qs with
  | nil => exact absurd rfl hne
  | cons q qs =>
    cases eq_reset_of_lawful hlawful
    obtain ⟨t, answers, hrun, hlen, ht⟩ := (State.Inv.hostReset s).runHost qs
    exact ⟨t, .done :: answers, (runHost_cons_iff ..).mpr ⟨_, _, _, rfl, hrun, rfl⟩, congrArg (· + 1) hlen, ht⟩

/-- Settles O29: one element of the vector of keys. -/
theorem setKeyWritesOneFlag : Obligations.SetKeyWritesOneFlag := fun s k _ =>
  ⟨_, rfl, Vector.getElem_set_self k.isLt, (ChangesOnly.refl s (· = .key k)).setKeys_set rfl⟩

/-- Settles O30: a cell number below 2048 is in the display's range. -/
theorem displayAndFaultPortsOnlyReadOrAcknowledge : Obligations.DisplayAndFaultPortsOnlyReadOrAcknowledge := by
  intro s
  refine ⟨fun k => ?_, rfl, _, rfl, rfl, (ChangesOnly.refl s (· = .drawFlag)).setDrawFlag rfl⟩
  have hcell : s.readDisplay k = (s.display[k.val / 64]'(by omega)).getLsbD (k.val % 64) := dif_pos k.isLt
  rw [← hcell]
  rfl

end Sys2Proof.Proofs

/-! Proofs about reset, loading and the final state (70_reset_and_hazards.md), and three statements of other files: the
words of the decoder's round trip (30_encoding.md) and the draw counter (44_index_random.md). -/

namespace Sys2Proof.Machine

open Sys2Proof.Claims

theorem transact_loadProgram_of_fits (s : State) {image : List Byte} (h : image.length ≤ 3584) :
    transact (.loadProgram image) s = .next (s.setMem (s.mem.setBytes progBase image), .done) := by
  simp [transact, State.loadProgram, (imageWellFormed_iff image).mpr h]

theorem transact_loadProgram_of_tooLong (s : State) {image : List Byte} (h : 3584 < image.length) :
    transact (.loadProgram image) s = .next (s, .loadError .tooLong) := by
  simp [transact, State.loadProgram, (imageWellFormed_eq_false_iff image).mpr h]

/-- With both timers 0 the timer update changes nothing (R125). -/
theorem State.updateTimers_of_zero {s : State} (hdelay : s.delay = 0) (hsound : s.sound = 0) : s.updateTimers = s := by
  have hd : tick s.delay = s.delay := by rw [hdelay]; rfl
  have hs : tick s.sound = s.sound := by rw [hsound]; rfl
  rw [State.updateTimers_eq, hd, hs]
  rfl

end Sys2Proof.Machine

namespace Sys2Proof.Proofs

open Sys2Proof.Machine Sys2Proof.Claims

/-- Settles O25: the jump sets `pc` to what it is, and the timers stay at 0. -/
theorem finalStateIsAFixedPoint : Obligations.FinalStateIsAFixedPoint := by
  intro s ⟨hok, hdelay, hsound, hfits, nnn, hword, htarget⟩
  have hpc : s.pc.toNat ≤ 0x0FFE := by
    have := (rangeFault_eq_none_iff s.pc.toNat 2).mp hfits
    omega
  have hruns : Runs s (.jp nnn) := ⟨⟨hok, hpc⟩, hword ▸ decodeWord_encode (.jp nnn)⟩
  have hexec : exec (.jp nnn) s = .next s := by
    change Host.Outcome.next (s.setPc (addrWord nnn)) = _
    rw [htarget]
    rfl
  rw [step_of_runs hruns hexec, State.settle_of_completed hok, State.updateTimers_of_zero hdelay hsound]

/-- Settles O28: a run of bytes from 0x200 on, or the refusal. -/
theorem loadProgramWritesTheImageOrNothing : Obligations.LoadProgramWritesTheImageOrNothing := by
  intro s image
  refine ⟨fun hfits => ⟨_, transact_loadProgram_of_fits s hfits, fun k hk => ?_, ?_⟩,
    fun hlong => transact_loadProgram_of_tooLong s hlong⟩
  · exact (s.mem.get_setBytes_add progBase k image).trans (List.getD_eq_getElem image _ hk)
  · exact (ChangesOnly.refl s _).setMem_setBytes fun k hk => ⟨k, hk, rfl⟩

/-- Settles O26: memory after reset reads as `resetByte`, everything else is a literal of `State.reset`. -/
theorem resetLeavesTheStatedValues : Obligations.ResetLeavesTheStatedValues :=
  ⟨fun a ha => (getElem?_fontTable a ha).symm, fun a ha _ => resetByte_of_ge a ha, rfl, rfl, rfl,
    fun r => Vector.getElem_replicate r.isLt, fun k => Vector.getElem_replicate k.isLt,
    fun k => Vector.getElem_replicate k.isLt, rfl, rfl⟩

/-- Settles O27: `hostReset` reads nothing of the state but the draw counter. -/
theorem hostResetWorksFromAnyState : Obligations.HostResetWorksFromAnyState := fun s =>
  ⟨s.hostReset, rfl, rfl, rfl, rfl, Display.cell_replicate_zero⟩

/-- Settles O3: what the decoder can answer (`decodeWord_standsFor`). -/
theorem encodeOfDecodeIsTheWord : Obligations.EncodeOfDecodeIsTheWord := fun _ _ h => encode_of_decodeWord h

/-- Settles O20: of the forms of `Effect` only `rnd` changes the counter. -/
theorem onlyRndTakesADraw : Obligations.OnlyRndTakesADraw := by
  intro s t h
  have hblind : BlindToBookkeeping State.draws := {}
  constructor
  · rintro ⟨x, nn, hr⟩
    cases h.symm.trans (step_of_runs hr rfl)
    exact hblind.settle _
  · intro hnone
    by_contra hne
    obtain ⟨i, o, hr, he, heq⟩ := hblind.changed_by_exec h hne
    cases he with
    | rnd x nn hi => exact hnone x nn (hi ▸ hr)
    | _ => exact hne heq

/-- Settles O1: each word is the literal encoding of its instruction, or has no row. -/
theorem specWordsDecodeAsTheSpecSays : Obligations.SpecWordsDecodeAsTheSpecSays := by
  unfold Obligations.SpecWordsDecodeAsTheSpecSays
  decide

end Sys2Proof.Proofs
